-- ==== Sys2Proof/Word.lean ====
section
/-! DEFINITION. The plain word types of the machine (00_scope.md R4, R8): every value is unsigned. -/

namespace Sys2Proof

/-- One memory byte, one V register, one timer (R4, `REG_W` = 8). -/
abbrev Byte := BitVec 8

/-- The width of I, PC and a stack entry (R4, `ADDR_REG_W` = 16). -/
abbrev Addr := BitVec 16

/-- An instruction word: two bytes, the one at the lower address in bits 15..8 (R90). -/
abbrev Word := BitVec 16

/-- A register number 0..15, the value of an x or y field (R21, R91). -/
abbrev RegIdx := Fin 16

/-- A key number 0x0..0xF (R28). -/
abbrev KeyIdx := Fin 16

end Sys2Proof
end

