-- ==== Sys2Proof/Syntax.lean ====
section
/-! DEFINITION. The instructions: one constructor for each row of spec/opcode_table.json (30_encoding.md R94).
A field the format ignores (R92, R95) is no argument; `nn` and `nnn` are the immediates exactly as they stand in
the word (R93). -/

namespace Sys2Proof

inductive Instr where
  /-- 00E0 -/
  | cls
  /-- 00EE -/
  | ret
  /-- 1NNN -/
  | jp (nnn : BitVec 12)
  /-- 2NNN -/
  | call (nnn : BitVec 12)
  /-- 3XNN -/
  | seImm (x : RegIdx) (nn : Byte)
  /-- 4XNN -/
  | sneImm (x : RegIdx) (nn : Byte)
  /-- 5XY0 -/
  | seReg (x y : RegIdx)
  /-- 6XNN -/
  | ldImm (x : RegIdx) (nn : Byte)
  /-- 7XNN -/
  | addImm (x : RegIdx) (nn : Byte)
  /-- 8XY0 -/
  | ldReg (x y : RegIdx)
  /-- 8XY1 -/
  | orReg (x y : RegIdx)
  /-- 8XY2 -/
  | andReg (x y : RegIdx)
  /-- 8XY3 -/
  | xorReg (x y : RegIdx)
  /-- 8XY4 -/
  | addReg (x y : RegIdx)
  /-- 8XY5 -/
  | sub (x y : RegIdx)
  /-- 8XY6 -/
  | shr (x y : RegIdx)
  /-- 8XY7 -/
  | subn (x y : RegIdx)
  /-- 8XYE -/
  | shl (x y : RegIdx)
  /-- 9XY0 -/
  | sneReg (x y : RegIdx)
  /-- ANNN -/
  | ldI (nnn : BitVec 12)
  /-- BNNN -/
  | jpV0 (nnn : BitVec 12)
  /-- CXNN -/
  | rnd (x : RegIdx) (nn : Byte)
  /-- DXYN; `n` is the number of sprite rows 0..15 (R93 (c)) -/
  | drw (x y : RegIdx) (n : Fin 16)
  /-- EX9E -/
  | skp (x : RegIdx)
  /-- EXA1 -/
  | sknp (x : RegIdx)
  /-- FX07 -/
  | ldVxDt (x : RegIdx)
  /-- FX0A -/
  | ldVxK (x : RegIdx)
  /-- FX15 -/
  | ldDtVx (x : RegIdx)
  /-- FX18 -/
  | ldStVx (x : RegIdx)
  /-- FX1E -/
  | addIVx (x : RegIdx)
  /-- FX29 -/
  | ldFVx (x : RegIdx)
  /-- FX33 -/
  | ldBVx (x : RegIdx)
  /-- FX55; `x` is also the count x + 1 (R93 (d)) -/
  | ldMemVx (x : RegIdx)
  /-- FX65; `x` is also the count x + 1 (R93 (d)) -/
  | ldVxMem (x : RegIdx)
  /-- Any word that matches no other row, with that word (R96, R125) -/
  | nopUnknown (w : Word)
deriving DecidableEq, Repr

end Sys2Proof
end

