-- ==== Sys2Proof/WellFormed.lean ====
section
/-! DEFINITION. Which terms of `Instr` are instructions. Every operand type holds exactly the values its field
holds, so the one check is on the unknown opcode: the word it carries must be one of the words of R96. -/

namespace Sys2Proof

/-- R96 (a): op = 0x0 with NN other than 0xE0 and 0xEE. -/
def unknownInGroup0 (w : Word) : Bool :=
  w.toNat / 4096 == 0x0 && !(w.toNat % 256 == 0xE0 || w.toNat % 256 == 0xEE)

/-- R96 (b): op = 0x8 with n in 0x8, 0x9, 0xA, 0xB, 0xC, 0xD, 0xF. -/
def unknownInGroup8 (w : Word) : Bool :=
  w.toNat / 4096 == 0x8 && [0x8, 0x9, 0xA, 0xB, 0xC, 0xD, 0xF].contains (w.toNat % 16)

/-- R96 (c): op = 0xE with NN other than 0x9E and 0xA1. -/
def unknownInGroupE (w : Word) : Bool :=
  w.toNat / 4096 == 0xE && !(w.toNat % 256 == 0x9E || w.toNat % 256 == 0xA1)

/-- R96 (d): op = 0xF with NN other than 0x07, 0x0A, 0x15, 0x18, 0x1E, 0x29, 0x33, 0x55, 0x65. -/
def unknownInGroupF (w : Word) : Bool :=
  w.toNat / 4096 == 0xF && !([0x07, 0x0A, 0x15, 0x18, 0x1E, 0x29, 0x33, 0x55, 0x65].contains (w.toNat % 256))

/-- The unknown words, "exactly" those four sets (R96). -/
def isUnknownWord (w : Word) : Bool :=
  unknownInGroup0 w || unknownInGroup8 w || unknownInGroupE w || unknownInGroupF w

/-- The well-formed instructions (R94 to R96). -/
def Instr.wellFormed : Instr → Bool
  | .cls => true
  | .ret => true
  | .jp _ => true
  | .call _ => true
  | .seImm _ _ => true
  | .sneImm _ _ => true
  | .seReg _ _ => true
  | .ldImm _ _ => true
  | .addImm _ _ => true
  | .ldReg _ _ => true
  | .orReg _ _ => true
  | .andReg _ _ => true
  | .xorReg _ _ => true
  | .addReg _ _ => true
  | .sub _ _ => true
  | .shr _ _ => true
  | .subn _ _ => true
  | .shl _ _ => true
  | .sneReg _ _ => true
  | .ldI _ => true
  | .jpV0 _ => true
  | .rnd _ _ => true
  | .drw _ _ _ => true
  | .skp _ => true
  | .sknp _ => true
  | .ldVxDt _ => true
  | .ldVxK _ => true
  | .ldDtVx _ => true
  | .ldStVx _ => true
  | .addIVx _ => true
  | .ldFVx _ => true
  | .ldBVx _ => true
  | .ldMemVx _ => true
  | .ldVxMem _ => true
  | .nopUnknown w => isUnknownWord w

end Sys2Proof
end

