-- ==== Sys2Proof/Decode.lean ====
section
/-! DEFINITION. Decoding and encoding (30_encoding.md R90 to R96, R101; 20_memory.md R64; 40_fetch_decode_step.md
R123). Decoding depends on the word alone and is total: every word is one of the 34 instructions or the unknown
opcode. -/

namespace Sys2Proof

/-- op = W[15:12] (R91). -/
def opField (w : Word) : BitVec 4 := w.extractLsb' 12 4

/-- x = W[11:8] (R91), a register number. -/
def xField (w : Word) : RegIdx := (w.extractLsb' 8 4).toFin

/-- y = W[7:4] (R91), a register number. -/
def yField (w : Word) : RegIdx := (w.extractLsb' 4 4).toFin

/-- n = W[3:0] (R91), a selector or a row count. -/
def nField (w : Word) : Fin 16 := (w.extractLsb' 0 4).toFin

/-- NN = W[7:0] (R91). -/
def nnField (w : Word) : Byte := w.extractLsb' 0 8

/-- NNN = W[11:0] (R91). -/
def nnnField (w : Word) : BitVec 12 := w.extractLsb' 0 12

/-- Group 0x0: selector NN; the x nibble is ignored (R94, R95). -/
def decodeGroup0 (w : Word) : Instr :=
  if nnField w = 0xE0#8 then .cls
  else if nnField w = 0xEE#8 then .ret
  else .nopUnknown w

/-- Group 0x8: selector n (R94). -/
def decodeGroup8 (w : Word) : Instr :=
  match (nField w).val with
  | 0x0 => .ldReg (xField w) (yField w)
  | 0x1 => .orReg (xField w) (yField w)
  | 0x2 => .andReg (xField w) (yField w)
  | 0x3 => .xorReg (xField w) (yField w)
  | 0x4 => .addReg (xField w) (yField w)
  | 0x5 => .sub (xField w) (yField w)
  | 0x6 => .shr (xField w) (yField w)
  | 0x7 => .subn (xField w) (yField w)
  | 0xE => .shl (xField w) (yField w)
  | _ => .nopUnknown w

/-- Group 0xE: selector NN (R94). -/
def decodeGroupE (w : Word) : Instr :=
  if nnField w = 0x9E#8 then .skp (xField w)
  else if nnField w = 0xA1#8 then .sknp (xField w)
  else .nopUnknown w

/-- Group 0xF: selector NN (R94). -/
def decodeGroupF (w : Word) : Instr :=
  if nnField w = 0x07#8 then .ldVxDt (xField w)
  else if nnField w = 0x0A#8 then .ldVxK (xField w)
  else if nnField w = 0x15#8 then .ldDtVx (xField w)
  else if nnField w = 0x18#8 then .ldStVx (xField w)
  else if nnField w = 0x1E#8 then .addIVx (xField w)
  else if nnField w = 0x29#8 then .ldFVx (xField w)
  else if nnField w = 0x33#8 then .ldBVx (xField w)
  else if nnField w = 0x55#8 then .ldMemVx (xField w)
  else if nnField w = 0x65#8 then .ldVxMem (xField w)
  else .nopUnknown w

/-- The instruction a word is (R94 to R96, R101): dispatch on op, then on the selector of its group. In groups
0x5 and 0x9 the n nibble is ignored (R95). The last arm is never reached: op is a nibble. -/
def decodeWord (w : Word) : Instr :=
  match (opField w).toNat with
  | 0x0 => decodeGroup0 w
  | 0x1 => .jp (nnnField w)
  | 0x2 => .call (nnnField w)
  | 0x3 => .seImm (xField w) (nnField w)
  | 0x4 => .sneImm (xField w) (nnField w)
  | 0x5 => .seReg (xField w) (yField w)
  | 0x6 => .ldImm (xField w) (nnField w)
  | 0x7 => .addImm (xField w) (nnField w)
  | 0x8 => decodeGroup8 w
  | 0x9 => .sneReg (xField w) (yField w)
  | 0xA => .ldI (nnnField w)
  | 0xB => .jpV0 (nnnField w)
  | 0xC => .rnd (xField w) (nnField w)
  | 0xD => .drw (xField w) (yField w) (nField w)
  | 0xE => decodeGroupE w
  | 0xF => decodeGroupF w
  | _ => .nopUnknown w

/-- Why a list of bytes is no instruction. The only reason there is: every word decodes (R101). -/
inductive DecodeReject where
  /-- Fewer than the two bytes of an instruction (R90). -/
  | truncated (available : Nat)
deriving DecidableEq, Repr

/-- W = byte0 ++ byte1, byte0 from the lower address (R64). -/
def wordOfBytes (byte0 byte1 : Byte) : Word := byte0 ++ byte1

/-- Decode the instruction at the head of a list of bytes in ascending address order, and give the rest. -/
def decode : List Byte → Except DecodeReject (Instr × List Byte)
  | [] => .error (.truncated 0)
  | [_] => .error (.truncated 1)
  | byte0 :: byte1 :: rest => .ok (decodeWord (wordOfBytes byte0 byte1), rest)

/-- The word whose op is `op` and whose other three nibbles are x, y, n (R91, R92). -/
def packXYN (op : Nat) (x y n : Fin 16) : Word :=
  BitVec.ofNat 16 (op * 4096 + x.val * 256 + y.val * 16 + n.val)

/-- The word op, x, NN (R91, formats XIMM and XSEL of R92). -/
def packXNN (op : Nat) (x : Fin 16) (nn : Byte) : Word :=
  BitVec.ofNat 16 (op * 4096 + x.val * 256 + nn.toNat)

/-- The word op, NNN (R91, format ADDR of R92). -/
def packNNN (op : Nat) (nnn : BitVec 12) : Word :=
  BitVec.ofNat 16 (op * 4096 + nnn.toNat)

/-- The canonical word of an instruction (R94, R95: an ignored nibble is 0). -/
def encode : Instr → Word
  | .cls => packXNN 0x0 0 0xE0#8
  | .ret => packXNN 0x0 0 0xEE#8
  | .jp nnn => packNNN 0x1 nnn
  | .call nnn => packNNN 0x2 nnn
  | .seImm x nn => packXNN 0x3 x nn
  | .sneImm x nn => packXNN 0x4 x nn
  | .seReg x y => packXYN 0x5 x y 0
  | .ldImm x nn => packXNN 0x6 x nn
  | .addImm x nn => packXNN 0x7 x nn
  | .ldReg x y => packXYN 0x8 x y 0x0
  | .orReg x y => packXYN 0x8 x y 0x1
  | .andReg x y => packXYN 0x8 x y 0x2
  | .xorReg x y => packXYN 0x8 x y 0x3
  | .addReg x y => packXYN 0x8 x y 0x4
  | .sub x y => packXYN 0x8 x y 0x5
  | .shr x y => packXYN 0x8 x y 0x6
  | .subn x y => packXYN 0x8 x y 0x7
  | .shl x y => packXYN 0x8 x y 0xE
  | .sneReg x y => packXYN 0x9 x y 0
  | .ldI nnn => packNNN 0xA nnn
  | .jpV0 nnn => packNNN 0xB nnn
  | .rnd x nn => packXNN 0xC x nn
  | .drw x y n => packXYN 0xD x y n
  | .skp x => packXNN 0xE x 0x9E#8
  | .sknp x => packXNN 0xE x 0xA1#8
  | .ldVxDt x => packXNN 0xF x 0x07#8
  | .ldVxK x => packXNN 0xF x 0x0A#8
  | .ldDtVx x => packXNN 0xF x 0x15#8
  | .ldStVx x => packXNN 0xF x 0x18#8
  | .addIVx x => packXNN 0xF x 0x1E#8
  | .ldFVx x => packXNN 0xF x 0x29#8
  | .ldBVx x => packXNN 0xF x 0x33#8
  | .ldMemVx x => packXNN 0xF x 0x55#8
  | .ldVxMem x => packXNN 0xF x 0x65#8
  | .nopUnknown w => w

/-- The two bytes of a word as they lie in memory, the high byte first (R64, R100). -/
def bytesOfWord (w : Word) : List Byte := [w.extractLsb' 8 8, w.extractLsb' 0 8]

/-- The opcode map of R94 as the spec prints it: match, mask, and the mnemonic of the row, in the spec's order.
A second reading of R94, independent of `decodeWord`; the two are compared by a statement. -/
def opcodeMap : List (Word × Word × String) :=
  [ (0x00E0, 0xF0FF, "CLS"), (0x00EE, 0xF0FF, "RET"), (0x1000, 0xF000, "JP"), (0x2000, 0xF000, "CALL"),
    (0x3000, 0xF000, "SE_IMM"), (0x4000, 0xF000, "SNE_IMM"), (0x5000, 0xF000, "SE_REG"),
    (0x6000, 0xF000, "LD_IMM"), (0x7000, 0xF000, "ADD_IMM") ] ++
  [ (0x8000, 0xF00F, "LD_REG"), (0x8001, 0xF00F, "OR"), (0x8002, 0xF00F, "AND"), (0x8003, 0xF00F, "XOR"),
    (0x8004, 0xF00F, "ADD_REG"), (0x8005, 0xF00F, "SUB"), (0x8006, 0xF00F, "SHR"), (0x8007, 0xF00F, "SUBN"),
    (0x800E, 0xF00F, "SHL"), (0x9000, 0xF000, "SNE_REG") ] ++
  [ (0xA000, 0xF000, "LD_I"), (0xB000, 0xF000, "JP_V0"), (0xC000, 0xF000, "RND"), (0xD000, 0xF000, "DRW"),
    (0xE09E, 0xF0FF, "SKP"), (0xE0A1, 0xF0FF, "SKNP") ] ++
  [ (0xF007, 0xF0FF, "LD_VX_DT"), (0xF00A, 0xF0FF, "LD_VX_K"), (0xF015, 0xF0FF, "LD_DT_VX"),
    (0xF018, 0xF0FF, "LD_ST_VX"), (0xF01E, 0xF0FF, "ADD_I_VX"), (0xF029, 0xF0FF, "LD_F_VX"),
    (0xF033, 0xF0FF, "LD_B_VX"), (0xF055, 0xF0FF, "LD_MEM_VX"), (0xF065, 0xF0FF, "LD_VX_MEM") ]

/-- The row's mnemonic (R94; the default row of spec/opcode_table.json for an unknown word). -/
def mnemonic : Instr → String
  | .cls => "CLS"
  | .ret => "RET"
  | .jp _ => "JP"
  | .call _ => "CALL"
  | .seImm _ _ => "SE_IMM"
  | .sneImm _ _ => "SNE_IMM"
  | .seReg _ _ => "SE_REG"
  | .ldImm _ _ => "LD_IMM"
  | .addImm _ _ => "ADD_IMM"
  | .ldReg _ _ => "LD_REG"
  | .orReg _ _ => "OR"
  | .andReg _ _ => "AND"
  | .xorReg _ _ => "XOR"
  | .addReg _ _ => "ADD_REG"
  | .sub _ _ => "SUB"
  | .shr _ _ => "SHR"
  | .subn _ _ => "SUBN"
  | .shl _ _ => "SHL"
  | .sneReg _ _ => "SNE_REG"
  | .ldI _ => "LD_I"
  | .jpV0 _ => "JP_V0"
  | .rnd _ _ => "RND"
  | .drw _ _ _ => "DRW"
  | .skp _ => "SKP"
  | .sknp _ => "SKNP"
  | .ldVxDt _ => "LD_VX_DT"
  | .ldVxK _ => "LD_VX_K"
  | .ldDtVx _ => "LD_DT_VX"
  | .ldStVx _ => "LD_ST_VX"
  | .addIVx _ => "ADD_I_VX"
  | .ldFVx _ => "LD_F_VX"
  | .ldBVx _ => "LD_B_VX"
  | .ldMemVx _ => "LD_MEM_VX"
  | .ldVxMem _ => "LD_VX_MEM"
  | .nopUnknown _ => "NOP_UNKNOWN"

/-- The word a table row's bits are, numbered as spec/opcode_table.json numbers them: the first word's bit 0 is
bit 0, every bit from `nbits` up is 0, and an instruction of this machine is one word (R90; log 21). -/
def tableWord (nbits w : Nat) : Word := BitVec.ofNat 16 (w % 2 ^ nbits)

/-- What the decoder reads from a table row's word laid out in memory order. -/
def decodeTableWord (nbits w : Nat) : Option Instr :=
  match decode (bytesOfWord (tableWord nbits w)) with
  | .ok (i, _) => some i
  | .error _ => none

end Sys2Proof
end

