-- ==== Sys2Proof/Machine/Flags.lean ====
section
/-! DEFINITION. The results and flags of the 8-bit ALU (42_alu.md R163 to R170, R172). A flag is the byte 0 or 1
that VF receives (10_state.md R22). -/

namespace Sys2Proof.Machine

/-- 1 if the condition holds, else 0. -/
def flagByte (c : Bool) : Byte := if c then 1 else 0

/-- (a + b) mod 256 (R161, R166, R172). -/
def addResult (a b : Byte) : Byte := a + b

/-- Carry: 1 exactly when the true sum is over 255 (R166, R172). -/
def carryFlag (a b : Byte) : Byte := flagByte (decide (a.toNat + b.toNat > 255))

/-- (a - b) mod 256 (R167, R169, R172). -/
def subResult (a b : Byte) : Byte := a - b

/-- No borrow in a - b: 1 exactly when a ≥ b (R167, R169, R172). -/
def noBorrowFlag (a b : Byte) : Byte := flagByte (decide (a.toNat ≥ b.toNat))

/-- t >> 1, zero fill (R168). -/
def shrResult (t : Byte) : Byte := t >>> 1

/-- Bit 0, the bit shifted out to the right (R168). -/
def shrFlag (t : Byte) : Byte := flagByte (t.getLsbD 0)

/-- (t << 1) mod 256, zero fill (R170). -/
def shlResult (t : Byte) : Byte := t <<< 1

/-- Bit 7, the bit shifted out to the left (R170). -/
def shlFlag (t : Byte) : Byte := flagByte (t.getLsbD 7)

/-- One timer at a tick: down by 1 if above 0 (60_exceptions.md R262). -/
def timerTick (t : Byte) : Byte := if t = 0 then 0 else t - 1

end Sys2Proof.Machine
end

