-- ==== Sys2Proof/Config.lean ====
section
/-! DEFINITION. The fixed sizes of 00_scope.md R4, and the free values the environment supplies (R7). -/

namespace Sys2Proof.Config

/-- Highest memory address: `MEM_SIZE` = 4096 bytes, addresses 0x000..0xFFF (R4, R60). -/
@[simp] abbrev memTop : Nat := 0xFFF

/-- Display width in pixels (R4, `W`). -/
@[simp] abbrev dispW : Nat := 64

/-- Display height in pixels (R4, `H`). -/
@[simp] abbrev dispH : Nat := 32

/-- Address of glyph 0 (R4, `FONT_BASE`). -/
@[simp] abbrev fontBase : Nat := 0x050

/-- Bytes of the font image: 16 glyphs of 5 bytes (R293). -/
@[simp] abbrev fontLen : Nat := 80

/-- Address of the first program byte (R4, `PROG_BASE`). -/
@[simp] abbrev progBase : Nat := 0x200

/-- Largest program image (R4, `PROG_MAX`). -/
@[simp] abbrev progMax : Nat := 3584

/-- FREE VALUE (R7, R171, R268; log 4). The byte `rnd` the random source delivers at draw number n when the
state holds no byte supplied in advance. No body: nothing can be proved of it, so a statement holds for every
random source. -/
opaque freeRnd : Nat → Byte

/-- FREE VALUE (R7, R266; log 5). The key inputs `key_in[0..15]` at tick number n when the state holds no levels
supplied in advance. No body: any of the 2^16 combinations may be presented. -/
opaque freeKeyIn : Nat → Vector Bool 16

end Sys2Proof.Config
end

