-- ==== Sys2Proof/Machine/Params.lean ====
section
/-! DEFINITION. The parameter values the spec offers or decides: IPT, RESET_PC, FONT (00_scope.md R4). -/

namespace Sys2Proof.Machine.Params

/-- The reference value of IPT, steps a tick (R4, R264; the parameter itself is `State.ipt`, log 2). -/
def iptReference : Nat := 15

/-- PC after reset (R35, decision D1; log 8). -/
def resetPc : Addr := 0x200#16

/-- PRESUMED (log 6). The customary font of 93_implementation_defined.md G1, which R293 offers as the default of
the parameter FONT: five bytes a glyph, glyphs 0 to F in order. `resetAndLoad` takes any other font. -/
def font : List Byte :=
  [ 0xF0, 0x90, 0x90, 0x90, 0xF0,  0x20, 0x60, 0x20, 0x20, 0x70,
    0xF0, 0x10, 0xF0, 0x80, 0xF0,  0xF0, 0x10, 0xF0, 0x10, 0xF0 ] ++
  [ 0x90, 0x90, 0xF0, 0x10, 0x10,  0xF0, 0x80, 0xF0, 0x10, 0xF0,
    0xF0, 0x80, 0xF0, 0x90, 0xF0,  0xF0, 0x10, 0x20, 0x40, 0x40 ] ++
  [ 0xF0, 0x90, 0xF0, 0x90, 0xF0,  0xF0, 0x90, 0xF0, 0x10, 0xF0,
    0xF0, 0x90, 0xF0, 0x90, 0x90,  0xE0, 0x90, 0xE0, 0x90, 0xE0 ] ++
  [ 0xF0, 0x80, 0x80, 0x80, 0xF0,  0xE0, 0x90, 0x90, 0x90, 0xE0,
    0xF0, 0x80, 0xF0, 0x80, 0xF0,  0xF0, 0x80, 0xF0, 0x80, 0x80 ]

end Sys2Proof.Machine.Params
end

