-- ==== Sys2Proof/Machine/State.lean ====
section
/-! DEFINITION. The state of the machine (10_state.md R20, "the following, and nothing else"), as plain data, with
its reset value (R35); the reasons a step can stop. Fields after `sc` are not the spec's state: the configuration
parameter IPT and the environment's inputs (R7, R34; logs 2, 4, 5). -/

namespace Sys2Proof.Machine

/-- The four faults (60_exceptions.md R250). -/
inductive FaultCause where
  /-- a push when the stack holds 16 entries (R251) -/
  | stackOverflow
  /-- a pop when the stack is empty (R252) -/
  | stackUnderflow
  /-- an instruction fetch with PC > 0xFFE (R253) -/
  | memRangeFetch
  /-- a data access whose highest address is above 0xFFF (R253) -/
  | memRangeData
deriving DecidableEq, Repr

/-- The sixteen general registers V0..VF (R21). -/
abbrev RegFile := Vector Byte 16

/-- Sixteen key levels, true = pressed (R28). -/
abbrev Keys := Vector Bool 16

/-- The framebuffer: 32 rows of 64 pixels, row 0 at the top, true = lit (R30). -/
abbrev FrameBuffer := Vector (Vector Bool 64) 32

/-- Memory: the cells that differ from the reset contents, by rising address (canonical form: `Memory.wf`). -/
abbrev Memory := List Host.Cell

structure State where
  /-- V0..VF (R21); VF = V[15] is the only flag (R22) -/
  v : RegFile
  /-- I, the address register (R23) -/
  i : Addr
  /-- PC (R24) -/
  pc : Addr
  /-- STK, the sixteen stack entries (R25) -/
  stk : Vector Addr 16
  /-- SP, the number of valid entries, 0..16 (R25) -/
  sp : Fin 17
  /-- DT, the delay timer (R26) -/
  dt : Byte
  /-- ST, the sound timer (R27) -/
  st : Byte
  /-- KEY, the keypad snapshot (R28) -/
  key : Keys
  /-- KL, the key-wait latch (R29) -/
  kl : Option KeyIdx
  /-- FB (R30) -/
  fb : FrameBuffer
  /-- MEM (R31) -/
  mem : Memory
  /-- FAULT; none is the spec's None (R32) -/
  fault : Option FaultCause
  /-- SC, steps performed since the last tick (R33) -/
  sc : Nat
  /-- the configuration parameter IPT (R4); no event writes it -/
  ipt : Nat
  /-- random bytes the source is to supply next, oldest first; then `Config.freeRnd` (R268) -/
  rndIn : List Byte
  /-- random bytes drawn so far -/
  rndDraws : Nat
  /-- key levels the inputs are to show at the next ticks, oldest first; then `Config.freeKeyIn` (R266) -/
  keyIn : List Keys
  /-- ticks so far -/
  keyDraws : Nat
deriving DecidableEq, Repr

/-- Why `step` stops for good. -/
inductive Fault where
  /-- FAULT is not None, so no step and no tick is enabled (R120, R258): the stuck state that follows every fault
  entry. Raised by `step` alone, never by a meaning. Safe: the machine of the spec changes no state either. -/
  | halted (cause : FaultCause)
deriving DecidableEq, Repr

/-- Why `exec` gives no meaning. -/
inductive Refusal where
  /-- An arm of `exec` with no meaning yet, by its row's mnemonic. No arm raises it: every row is modelled.
  Safe: nothing follows from a refusal. -/
  | notModelled (mnemonic : String)
deriving DecidableEq, Repr

/-- The machine right after reset, with the reference IPT, the default font and no program image (R35, R290;
logs 2, 4 to 8, 16, 17). -/
def State.reset : State where
  v := .replicate 16 0
  i := 0
  pc := Params.resetPc
  stk := .replicate 16 0
  sp := 0
  dt := 0
  st := 0
  key := .replicate 16 false
  kl := none
  fb := .replicate 32 (.replicate 64 false)
  mem := []
  fault := none
  sc := Params.iptReference
  ipt := Params.iptReference
  rndIn := []
  rndDraws := 0
  keyIn := []
  keyDraws := 0

/-! Named updates, one for each thing an event writes. -/

/-- V[x] <- b (R9). -/
def State.setReg (s : State) (x : RegIdx) (b : Byte) : State := { s with v := s.v.set x.val b x.isLt }

/-- V <- regs, for the block load of R195. -/
def State.setRegs (s : State) (regs : RegFile) : State := { s with v := regs }

/-- I <- a. -/
def State.setI (s : State) (a : Addr) : State := { s with i := a }

/-- PC <- a. -/
def State.setPc (s : State) (a : Addr) : State := { s with pc := a }

/-- STK and SP (R127, R128). -/
def State.setStack (s : State) (stk : Vector Addr 16) (sp : Fin 17) : State := { s with stk := stk, sp := sp }

/-- DT <- b. -/
def State.setDt (s : State) (b : Byte) : State := { s with dt := b }

/-- ST <- b. -/
def State.setSt (s : State) (b : Byte) : State := { s with st := b }

/-- KL <- k. -/
def State.setKl (s : State) (k : Option KeyIdx) : State := { s with kl := k }

/-- FB <- fb. -/
def State.setFb (s : State) (fb : FrameBuffer) : State := { s with fb := fb }

/-- MEM <- m. -/
def State.setMem (s : State) (m : Memory) : State := { s with mem := m }

/-- FAULT <- f. -/
def State.setFault (s : State) (f : FaultCause) : State := { s with fault := some f }

/-- SC <- SC + 1 (R120). -/
def State.bumpSc (s : State) : State := { s with sc := s.sc + 1 }

/-- One random byte has been taken from the source (R268). -/
def State.rndTaken (s : State) : State := { s with rndIn := s.rndIn.tail, rndDraws := s.rndDraws + 1 }

end Sys2Proof.Machine
end

