-- ==== Sys2Proof/Machine/Memory.lean ====
section
/-! DEFINITION. Memory as a canonical list of cells: reading and writing bytes (00_scope.md R10; 20_memory.md R60,
R61, R65). The address is a plain number; the range check of R62 stands in Ops.lean and comes before any access. -/

namespace Sys2Proof.Machine

/-- What an address that no cell lists reads as: the reset contents, that is the font image at 0x050..0x09F and
0x00 elsewhere (10_state.md R35; logs 6 and 7). -/
def Memory.unlisted (a : Nat) : Byte :=
  if Config.fontBase ≤ a ∧ a < Config.fontBase + Config.fontLen then Params.font.getD (a - Config.fontBase) 0 else 0

/-- MEM[a] (R10). -/
def Memory.read : Memory → Nat → Byte
  | [], a => Memory.unlisted a
  | (c, b) :: rest, a => if a = c then b else Memory.read rest a

/-- MEM[a] <- b (R10), keeping the canonical form: writing what an unlisted address reads as removes the cell. -/
def Memory.write : Memory → Nat → Byte → Memory
  | [], a, b => if b = Memory.unlisted a then [] else [(a, b)]
  | (c, d) :: rest, a, b =>
    if a < c then (if b = Memory.unlisted a then (c, d) :: rest else (a, b) :: (c, d) :: rest)
    else if a = c then (if b = Memory.unlisted a then rest else (a, b) :: rest)
    else (c, d) :: Memory.write rest a b

/-- `MemRead(addr, n)`: the bytes at addr .. addr + n - 1 in ascending order (R10). -/
def Memory.readBytes (m : Memory) (addr : Nat) : Nat → List Byte
  | 0 => []
  | n + 1 => m.read addr :: Memory.readBytes m (addr + 1) n

/-- `MemWrite(addr, n, v)`: the list stored in ascending address order (R10). -/
def Memory.writeBytes (m : Memory) (addr : Nat) : List Byte → Memory
  | [] => m
  | b :: bs => Memory.writeBytes (m.write addr b) (addr + 1) bs

/-- The canonical form from address `lo` on: addresses strictly rise, none is above 0xFFF (R60), and no cell holds
what its address reads as unlisted. -/
def Memory.wfFrom (lo : Nat) : Memory → Bool
  | [] => true
  | (c, b) :: rest =>
    decide (lo ≤ c) && decide (c ≤ Config.memTop) && decide (b ≠ Memory.unlisted c) && Memory.wfFrom (c + 1) rest

/-- The canonical form of memory. Equal memories are equal lists. -/
def Memory.wf (m : Memory) : Bool := Memory.wfFrom 0 m

end Sys2Proof.Machine
end

