-- ==== Sys2Proof/Machine/Operands.lean ====
section
/-! DEFINITION. The operand forms (30_encoding.md R93): registers, immediates, key and digit numbers, sprite
coordinates, spans of memory through I, and the environment's inputs. -/

namespace Sys2Proof.Machine

/-- V[x] (R9, R93 (d)). -/
def State.reg (s : State) (x : RegIdx) : Byte := s.v[x.val]

/-- VF is V[15] (R22). -/
abbrev vf : RegIdx := 15

/-- zext_16(NNN) (R93 (b)). -/
def zextNNN (nnn : BitVec 12) : Addr := nnn.setWidth 16

/-- zext_16 of a register (R147, R191). -/
def zextByte (b : Byte) : Addr := b.setWidth 16

/-- The low nibble of a register: a key number (R230, R231; decision D8, log 12) or a digit (R192). -/
def lowNibble (b : Byte) : Fin 16 := ⟨b.toNat % 16, Nat.mod_lt _ (by decide)⟩

/-- x0 = V[x] & 63, the start column (R213). -/
def startCol (b : Byte) : Nat := b.toNat % Config.dispW

/-- y0 = V[y] & 31, the start row (R213). -/
def startRow (b : Byte) : Nat := b.toNat % Config.dispH

/-- KEY[k] (R28). -/
def State.pressed (s : State) (k : KeyIdx) : Bool := s.key[k.val]

/-- The address of glyph d: font base + 5 * d (R192). -/
def glyphAddr (d : Fin 16) : Addr := BitVec.ofNat 16 (Config.fontBase + 5 * d.val)

/-- The unpacked decimal digits of a byte: hundreds, tens, ones (R193). -/
def bcdDigits (b : Byte) : List Byte :=
  [BitVec.ofNat 8 (b.toNat / 100), BitVec.ofNat 8 (b.toNat / 10 % 10), BitVec.ofNat 8 (b.toNat % 10)]

/-- V0..Vx inclusive, in ascending order (R194). -/
def State.regsUpTo (s : State) (x : RegIdx) : List Byte := s.v.toList.take (x.val + 1)

/-- The registers after V[k] <- MEM[base + k] for k = 0 .. n - 1, ascending (R195). -/
def loadRegs (m : Memory) (base : Nat) (regs : RegFile) : Nat → RegFile
  | 0 => regs
  | n + 1 => (loadRegs m base regs n).setIfInBounds n (m.read (base + n))

/-- A span of `len` bytes from `base` leaves memory: its highest address is above 0xFFF. An empty span never does
(R62, R63; decisions D2 and D11, log 10). -/
def spanOutOfRange (base len : Nat) : Bool := decide (1 ≤ len ∧ base + len - 1 > Config.memTop)

/-- The input `rnd` of this step (R7, R268; log 4). -/
def State.rndNow (s : State) : Byte := s.rndIn.headD (Config.freeRnd s.rndDraws)

/-- The input `key_in` of this tick (R7, R266; log 5). -/
def State.keyInNow (s : State) : Keys := s.keyIn.headD (Config.freeKeyIn s.keyDraws)

/-- The least pressed key, if any (R233; decision D7, log 11). -/
def State.leastPressed (s : State) : Option KeyIdx := (List.finRange 16).find? (fun k => s.pressed k)

end Sys2Proof.Machine
end

