-- ==== Sys2Proof/Machine/Ops.lean ====
section
/-! DEFINITION. The operations the meanings share: ending a step, fault entry, result and flag, control transfer,
the stack, and accesses through I. -/

namespace Sys2Proof.Machine

/-- What a step, a tick or a meaning answers. -/
abbrev Result := Host.Outcome State Fault Refusal

/-- Fault entry, `raise F` (60_exceptions.md R255): FAULT <- F and the step ends. Nothing is saved, there is no
vector and no handler; the machine is halted from here on (R258). There is no return from a fault: only reset
clears FAULT (R258), so no operation of that kind exists. -/
def raise (f : FaultCause) (s : State) : Result := .next (s.setFault f)

/-- Write the result to V[x], then, last of all, the flag to VF (42_alu.md R173; decision D9, log 14). -/
def writeResultFlag (x : RegIdx) (result flag : Byte) (s : State) : State := (s.setReg x result).setReg vf flag

/-- `Skip`: PC <- (PC + 2) mod 2^16 (40_fetch_decode_step.md R126). -/
def skip (s : State) : State := s.setPc (s.pc + 2)

/-- The six conditional skips (R126). -/
def skipIf (c : Bool) (s : State) : State := if c then skip s else s

/-- PC <- PC - 2: stay on this instruction (45_keypad_timers.md R232). -/
def stay (s : State) : State := s.setPc (s.pc - 2)

/-- `Push(v)` and then the rest of the instruction; StackOverflow when SP = 16, checked first (R127, R251). -/
def push (value : Addr) (s : State) (andThen : State → Result) : Result :=
  if h : s.sp.val < 16 then
    andThen (s.setStack (s.stk.set s.sp.val value h) ⟨s.sp.val + 1, Nat.succ_lt_succ h⟩)
  else raise .stackOverflow s

/-- `Pop()` with the popped value given to the rest of the instruction; StackUnderflow when SP = 0 (R128, R252). -/
def pop (s : State) (andThen : Addr → State → Result) : Result :=
  if h : 0 < s.sp.val then
    andThen (s.stk[s.sp.val - 1]'(by omega)) (s.setStack s.stk ⟨s.sp.val - 1, by omega⟩)
  else raise .stackUnderflow s

/-- The range check of a data access of `len` bytes from I, before anything else the instruction does: MemRangeData
if the span leaves memory (20_memory.md R62, R63; 60_exceptions.md R253, R256). -/
def withSpan (len : Nat) (s : State) (andThen : Result) : Result :=
  if spanOutOfRange s.i.toNat len then raise .memRangeData s else andThen

/-- Store bytes at I, I + 1, .. (43_index_memory.md R193, R194, R196). -/
def storeAtI (bytes : List Byte) (s : State) : State := s.setMem (s.mem.writeBytes s.i.toNat bytes)

/-- I <- (I + n) mod 2^16 (R191, R194, R195). -/
def advanceI (n : Addr) (s : State) : State := s.setI (s.i + n)

end Sys2Proof.Machine
end

