-- ==== Sys2Proof/Machine/Alu.lean ====
section
/-! DEFINITION. Register loads, the 8-bit ALU and the random byte (42_alu.md). Operands are read from the state at
entry; the flag is the last write (R173). -/

namespace Sys2Proof.Machine

/-- 6XNN: V[x] <- NN (R160). -/
def execLdImm (x : RegIdx) (nn : Byte) (s : State) : Result := .next (s.setReg x nn)

/-- 7XNN: V[x] <- (V[x] + NN) mod 256, VF not written as a flag (R161). -/
def execAddImm (x : RegIdx) (nn : Byte) (s : State) : Result := .next (s.setReg x (addResult (s.reg x) nn))

/-- 8XY0: V[x] <- V[y] (R162). -/
def execLdReg (x y : RegIdx) (s : State) : Result := .next (s.setReg x (s.reg y))

/-- 8XY1: V[x] <- V[x] | V[y]; VF <- 0 (R163). -/
def execOr (x y : RegIdx) (s : State) : Result := .next (writeResultFlag x (s.reg x ||| s.reg y) 0 s)

/-- 8XY2: V[x] <- V[x] & V[y]; VF <- 0 (R164). -/
def execAnd (x y : RegIdx) (s : State) : Result := .next (writeResultFlag x (s.reg x &&& s.reg y) 0 s)

/-- 8XY3: V[x] <- V[x] ^ V[y]; VF <- 0 (R165). -/
def execXor (x y : RegIdx) (s : State) : Result := .next (writeResultFlag x (s.reg x ^^^ s.reg y) 0 s)

/-- 8XY4: V[x] <- V[x] + V[y]; VF <- carry (R166). -/
def execAddReg (x y : RegIdx) (s : State) : Result :=
  .next (writeResultFlag x (addResult (s.reg x) (s.reg y)) (carryFlag (s.reg x) (s.reg y)) s)

/-- 8XY5: V[x] <- V[x] - V[y]; VF <- no borrow (R167). -/
def execSub (x y : RegIdx) (s : State) : Result :=
  .next (writeResultFlag x (subResult (s.reg x) (s.reg y)) (noBorrowFlag (s.reg x) (s.reg y)) s)

/-- 8XY6: V[x] <- V[y] >> 1; VF <- the bit shifted out (R168). -/
def execShr (x y : RegIdx) (s : State) : Result :=
  .next (writeResultFlag x (shrResult (s.reg y)) (shrFlag (s.reg y)) s)

/-- 8XY7: V[x] <- V[y] - V[x]; VF <- no borrow (R169). -/
def execSubn (x y : RegIdx) (s : State) : Result :=
  .next (writeResultFlag x (subResult (s.reg y) (s.reg x)) (noBorrowFlag (s.reg y) (s.reg x)) s)

/-- 8XYE: V[x] <- V[y] << 1; VF <- the bit shifted out (R170). -/
def execShl (x y : RegIdx) (s : State) : Result :=
  .next (writeResultFlag x (shlResult (s.reg y)) (shlFlag (s.reg y)) s)

/-- CXNN: V[x] <- rnd & NN, `rnd` a free value drawn afresh (R171; log 4). -/
def execRnd (x : RegIdx) (nn : Byte) (s : State) : Result := .next (s.rndTaken.setReg x (s.rndNow &&& nn))

end Sys2Proof.Machine
end

