-- ==== Sys2Proof/Machine/ControlFlow.lean ====
section
/-! DEFINITION. Control transfer (41_control_flow.md). Every meaning runs after the common fetch and PC advance, so
`s.pc` is the address of the following instruction (00_scope.md R12). -/

namespace Sys2Proof.Machine

/-- 00EE: PC <- Pop() (R140). -/
def execRet (s : State) : Result := pop s (fun value t => .next (t.setPc value))

/-- 1NNN: PC <- NNN (R141). -/
def execJp (nnn : BitVec 12) (s : State) : Result := .next (s.setPc (zextNNN nnn))

/-- 2NNN: Push(PC); PC <- NNN (R142). -/
def execCall (nnn : BitVec 12) (s : State) : Result := push s.pc s (fun t => .next (t.setPc (zextNNN nnn)))

/-- 3XNN: skip if V[x] = NN (R143). -/
def execSeImm (x : RegIdx) (nn : Byte) (s : State) : Result := .next (skipIf (s.reg x == nn) s)

/-- 4XNN: skip if V[x] ≠ NN (R144). -/
def execSneImm (x : RegIdx) (nn : Byte) (s : State) : Result := .next (skipIf (s.reg x != nn) s)

/-- 5XY0: skip if V[x] = V[y] (R145). -/
def execSeReg (x y : RegIdx) (s : State) : Result := .next (skipIf (s.reg x == s.reg y) s)

/-- 9XY0: skip if V[x] ≠ V[y] (R146). -/
def execSneReg (x y : RegIdx) (s : State) : Result := .next (skipIf (s.reg x != s.reg y) s)

/-- BNNN: PC <- V0 + NNN, a 16-bit sum (R147; decision D18, log 15). -/
def execJpV0 (nnn : BitVec 12) (s : State) : Result := .next (s.setPc (zextByte (s.reg 0) + zextNNN nnn))

end Sys2Proof.Machine
end

