-- ==== Sys2Proof/Machine/Blitter.lean ====
section
/-! DEFINITION. The framebuffer and the sprite blitter (44_display.md R211 to R214): XOR drawing, clipping at the
right and bottom edges, collision. -/

namespace Sys2Proof.Machine

/-- FB[r][c]; false outside the grid, where the blitter never looks (R30, R213). -/
def FrameBuffer.pixel (fb : FrameBuffer) (r c : Nat) : Bool :=
  if h : r < 32 ∧ c < 64 then (fb[r]'h.1)[c]'h.2 else false

/-- FB[r][c] <- not FB[r][c] (R211). -/
def FrameBuffer.toggle (fb : FrameBuffer) (r c : Nat) : FrameBuffer :=
  if h : r < 32 ∧ c < 64 then fb.set r ((fb[r]'h.1).set c (!(fb[r]'h.1)[c]'h.2) h.2) h.1 else fb

/-- All 2048 pixels false (R210). -/
def FrameBuffer.blank : FrameBuffer := .replicate 32 (.replicate 64 false)

/-- The framebuffer and the collision record during one draw (R214). -/
structure Blit where
  fb : FrameBuffer
  collided : Bool
deriving DecidableEq, Repr

/-- One sprite bit, c counted from the most significant, aimed at row cy and column x0 + c: passed over beyond the
right edge, toggling and testing its pixel if it is 1 (R211, R213, R214). -/
def drawBit (byte : Byte) (x0 cy : Nat) (b : Blit) (c : Nat) : Blit :=
  if x0 + c ≥ Config.dispW then b
  else if byte.getLsbD (7 - c) then ⟨b.fb.toggle cy (x0 + c), b.collided || b.fb.pixel cy (x0 + c)⟩
  else b

/-- One sprite row: bits c = 0 .. 7, ascending (R211). -/
def drawRow (byte : Byte) (x0 cy : Nat) (b : Blit) : Blit := (List.range 8).foldl (drawBit byte x0 cy) b

/-- The sprite rows in ascending order; a row beyond the bottom edge ends the draw (R211, R213). -/
def drawRows (m : Memory) (base x0 y0 : Nat) : List Nat → Blit → Blit
  | [], b => b
  | r :: rows, b =>
    if y0 + r ≥ Config.dispH then b else drawRows m base x0 y0 rows (drawRow (m.read (base + r)) x0 (y0 + r) b)

/-- A whole draw of n rows from memory at `base` (R211). -/
def blit (m : Memory) (base x0 y0 n : Nat) (fb : FrameBuffer) : Blit :=
  drawRows m base x0 y0 (List.range n) ⟨fb, false⟩

end Sys2Proof.Machine
end

