-- ==== Sys2Proof/Machine/Display.lean ====
section
/-! DEFINITION. The display instructions (44_display.md). -/

namespace Sys2Proof.Machine

/-- 00E0: every pixel false (R210). -/
def execCls (s : State) : Result := .next (s.setFb FrameBuffer.blank)

/-- DXYN: draw n rows from I at (V[x] & 63, V[y] & 31); VF <- collision, the last write (R211). The range check
covers all n bytes (decision D11, log 10). -/
def execDrw (x y : RegIdx) (n : Fin 16) (s : State) : Result :=
  let drawn := blit s.mem s.i.toNat (startCol (s.reg x)) (startRow (s.reg y)) n.val s.fb
  withSpan n.val s (.next ((s.setFb drawn.fb).setReg vf (flagByte drawn.collided)))

end Sys2Proof.Machine
end

