-- ==== Sys2Proof/Machine/IndexMemory.lean ====
section
/-! DEFINITION. The address register and memory (43_index_memory.md). -/

namespace Sys2Proof.Machine

/-- ANNN: I <- NNN (R190). -/
def execLdI (nnn : BitVec 12) (s : State) : Result := .next (s.setI (zextNNN nnn))

/-- FX1E: I <- (I + V[x]) mod 2^16, no flag (R191; decision D18, log 15). -/
def execAddIVx (x : RegIdx) (s : State) : Result := .next (advanceI (zextByte (s.reg x)) s)

/-- FX29: I <- font base + 5 * (V[x] & 0xF) (R192). -/
def execLdFVx (x : RegIdx) (s : State) : Result := .next (s.setI (glyphAddr (lowNibble (s.reg x))))

/-- FX33: the BCD digits of V[x] to I, I + 1, I + 2; I unchanged (R193). -/
def execLdBVx (x : RegIdx) (s : State) : Result := withSpan 3 s (.next (storeAtI (bcdDigits (s.reg x)) s))

/-- FX55: V0..Vx to memory from I; I <- I + x + 1 (R194). -/
def execLdMemVx (x : RegIdx) (s : State) : Result :=
  withSpan (x.val + 1) s (.next (advanceI (BitVec.ofNat 16 (x.val + 1)) (storeAtI (s.regsUpTo x) s)))

/-- FX65: memory from I to V0..Vx; I <- I + x + 1 (R195). -/
def execLdVxMem (x : RegIdx) (s : State) : Result :=
  withSpan (x.val + 1) s
    (.next (advanceI (BitVec.ofNat 16 (x.val + 1)) (s.setRegs (loadRegs s.mem s.i.toNat s.v (x.val + 1)))))

end Sys2Proof.Machine
end

