-- ==== Sys2Proof/Machine/KeypadTimers.lean ====
section
/-! DEFINITION. The keypad and timer instructions (45_keypad_timers.md). -/

namespace Sys2Proof.Machine

/-- EX9E: skip if the key named by V[x] is pressed (R230; low nibble by decision D8, log 12). -/
def execSkp (x : RegIdx) (s : State) : Result := .next (skipIf (s.pressed (lowNibble (s.reg x))) s)

/-- EXA1: skip if the key named by V[x] is not pressed (R231; low nibble by decision D8, log 12). -/
def execSknp (x : RegIdx) (s : State) : Result := .next (skipIf (!s.pressed (lowNibble (s.reg x))) s)

/-- FX0A: one poll of the key-wait machine (R232, R233). Unlatched: latch the least pressed key, if any, and stay.
Latched on k: stay while k is held; on its release write k to V[x], unlatch and go on. (Log 11: D6, D7, D15, D29.) -/
def execLdVxK (x : RegIdx) (s : State) : Result :=
  match s.kl with
  | none => .next (stay (s.setKl s.leastPressed))
  | some k =>
    if s.pressed k then .next (stay s)
    else .next ((s.setReg x (BitVec.ofNat 8 k.val)).setKl none)

/-- FX07: V[x] <- DT (R234). -/
def execLdVxDt (x : RegIdx) (s : State) : Result := .next (s.setReg x s.dt)

/-- FX15: DT <- V[x] (R235). -/
def execLdDtVx (x : RegIdx) (s : State) : Result := .next (s.setDt (s.reg x))

/-- FX18: ST <- V[x] (R236). -/
def execLdStVx (x : RegIdx) (s : State) : Result := .next (s.setSt (s.reg x))

end Sys2Proof.Machine
end

