-- ==== Sys2Proof/Machine/Unknown.lean ====
section
/-! DEFINITION. The unknown opcode (40_fetch_decode_step.md R125). -/

namespace Sys2Proof.Machine

/-- Any word that matches no row: nothing beyond the common PC advance. No fault, and the next instruction is not
skipped (R97, R125; conflict C11). -/
def execNopUnknown (s : State) : Result := .next s

end Sys2Proof.Machine
end

