-- ==== Sys2Proof/Machine/Executor.lean ====
section
/-! DEFINITION. The step of the executor (40_fetch_decode_step.md R120 to R124): fetch, PC advance, decode, execute,
count. -/

namespace Sys2Proof.Machine

/-- W = MEM[a] ++ MEM[a + 1] with a = PC; nothing when a > 0xFFE (R121, R64). -/
def fetchWord (s : State) : Option Word :=
  if s.pc.toNat + 1 > Config.memTop then none
  else some (wordOfBytes (s.mem.read s.pc.toNat) (s.mem.read (s.pc.toNat + 1)))

/-- PC <- a + 2 (R122). -/
def advancePc (s : State) : State := s.setPc (s.pc + 2)

/-- SC <- SC + 1, unless the instruction raised a fault: the raise ends the step first (R120; conflict C14, log 19). -/
def countStep (s : State) : State := if s.fault.isSome then s else s.bumpSc

/-- What follows the fetch of W: the advance, the instruction W is, the count (R122 to R124). -/
def runWord (w : Word) (s : State) : Result :=
  match exec (decodeWord w) (advancePc s) with
  | .next t => .next (countStep t)
  | .fault f => .fault f
  | .refused r => .refused r

/-- `Step(rnd)` of R124; the caller has checked that it is enabled (R120). -/
def executorStep (s : State) : Result :=
  match fetchWord s with
  | none => raise .memRangeFetch s
  | some w => runWord w s

end Sys2Proof.Machine
end

