-- ==== Sys2Proof/Machine/Tick.lean ====
section
/-! DEFINITION. The frame tick (60_exceptions.md R262, R263). -/

namespace Sys2Proof.Machine

/-- `Tick(key_in)` of R263: both timers, the keypad snapshot, a fresh budget. The caller has checked that it is
enabled. One key level is taken from the input. -/
def tick (s : State) : State :=
  { s with
    dt := timerTick s.dt
    st := timerTick s.st
    key := s.keyInNow
    sc := 0
    keyIn := s.keyIn.tail
    keyDraws := s.keyDraws + 1 }

/-- A tick is the next event: the frame's budget of IPT steps is used up (R120, R263, R264; decision D13, log 3). -/
def tickDue (s : State) : Bool := decide (s.ipt ≤ s.sc)

end Sys2Proof.Machine
end

