-- ==== Sys2Proof/Machine/Step.lean ====
section
/-! DEFINITION. One event of the machine (00_scope.md R6): a tick or a step of the executor, whichever is enabled
(40_fetch_decode_step.md R120, 60_exceptions.md R263, R264). -/

namespace Sys2Proof.Machine

/-- With a fault recorded nothing is enabled (R258; log 1). Else the tick when the budget is used up, else one step
of the executor (R264; log 3). -/
def step (s : State) : Host.Outcome State Fault Refusal :=
  match s.fault with
  | some cause => .fault (.halted cause)
  | none => if tickDue s then .next (tick s) else executorStep s

/-- The word of a table row stored where `step` fetches next, so that the very next step runs it: PC stays where it
is unless no fetch can succeed there, the frame's budget is opened if it is used up, a recorded fault is cleared
(log 17). From `State.reset` this is: the word at 0x200, and the state just after a tick as to SC. -/
def State.withFetchWord (s : State) (nbits w : Nat) : State :=
  let pc := if s.pc.toNat + 1 > Config.memTop then Params.resetPc else s.pc
  { s with
    pc := pc
    mem := s.mem.writeBytes pc.toNat (bytesOfWord (tableWord nbits w))
    fault := none
    ipt := max s.ipt 1
    sc := if s.sc < s.ipt then s.sc else 0 }

end Sys2Proof.Machine
end

