-- ==== Sys2Proof/Machine/Boot.lean ====
section
/-! DEFINITION. Reset and load, the one host action before execution (70_reset_and_hazards.md R290, R292, R293). -/

namespace Sys2Proof.Machine

/-- The shape of a font image: 80 bytes, the pixels in bits 7..4 of each (R293). -/
def fontImageOk (font : List Byte) : Bool := font.length == Config.fontLen && font.all (fun b => b.toNat % 16 == 0)

/-- Reset, font load and program load (R290). None when the core never starts: an image over 3584 bytes, a font of
the wrong shape (R292), or an IPT of 0 (R4). Every other field is as `State.reset` has it. -/
def resetAndLoad (ipt : Nat) (font program : List Byte) : Option State :=
  if 1 ≤ ipt ∧ fontImageOk font = true ∧ program.length ≤ Config.progMax then
    some { State.reset with
      ipt := ipt
      sc := ipt
      mem := (Memory.writeBytes [] Config.fontBase font).writeBytes Config.progBase program }
  else none

end Sys2Proof.Machine
end

