-- ==== Sys2Proof/Machine/Outputs.lean ====
section
/-! DEFINITION. What the host can see of a running core (10_state.md R36), and the offered end of a run
(70_reset_and_hazards.md R294). -/

namespace Sys2Proof.Machine

/-- `fb`: the 2048 pixels, row-major, pixel (cx, cy) at index 64 * cy + cx (R36, R267; decision D21, log 24). -/
def fbOut (s : State) : List Bool := (s.fb.toList.map Vector.toList).flatten

/-- `sound_active` = (ST > 0) (R36, R265). -/
def soundActive (s : State) : Bool := decide (0 < s.st.toNat)

/-- The code of a fault (R32, R250; decision D4). -/
def faultNumber : FaultCause → Nat
  | .stackOverflow => 1
  | .stackUnderflow => 2
  | .memRangeFetch => 3
  | .memRangeData => 4

/-- `fault`: 0 for None (R32, R36). -/
def faultCode (s : State) : Nat := (s.fault.map faultNumber).getD 0

/-- `halted` = (FAULT ≠ None) (R36). -/
def halted (s : State) : Bool := s.fault.isSome

/-- A program has finished: PC is on a jump to itself, no key wait is under way and there is no fault (R294, offered
by the spec from general knowledge, decision D24, log 28). It does not say the core stops. -/
def finished (s : State) : Bool :=
  match fetchWord s with
  | none => false
  | some w => decide (decodeWord w = .jp (nnnField s.pc)) && decide (zextNNN (nnnField s.pc) = s.pc)
      && s.kl.isNone && s.fault.isNone

end Sys2Proof.Machine
end

