-- ==== Sys2Proof/Safety.lean ====
section
/-! DEFINITION. The terms claims are stated in: what a safe state is (the invariants of the state of 10_state.md),
which fault an instruction raises and when, which instructions write which state, and runs. -/

namespace Sys2Proof.Machine

/-- FAULT = None: the machine is not halted (R32). -/
def Running (s : State) : Prop := s.fault = none

/-- The memory list is in its canonical form. -/
def MemoryCanonical (s : State) : Prop := s.mem.wf = true

/-- IPT ≥ 1 and SC is 0..IPT (R4, R33). -/
def BudgetSound (s : State) : Prop := 1 ≤ s.ipt ∧ s.sc ≤ s.ipt

/-- While KL is not none, PC points at an FX0A (R29). -/
def LatchAtKeyWait (s : State) : Prop :=
  s.kl ≠ none → ∃ w x, fetchWord s = some w ∧ decodeWord w = .ldVxK x

/-- PC is at most 0x10FE (R24, R147) and every valid stack entry is a return address 0x002..0x1000 (R140). -/
def ControlInRange (s : State) : Prop :=
  s.pc.toNat ≤ 0x10FE ∧ ∀ j : Fin 16, j.val < s.sp.val → 0x002 ≤ (s.stk[j.val]).toNat ∧ (s.stk[j.val]).toNat ≤ 0x1000

/-- Everything that holds of a state between events. -/
structure SafeState (s : State) : Prop where
  memory : MemoryCanonical s
  budget : BudgetSound s
  latch : LatchAtKeyWait s
  control : ControlInRange s

/-- The fault condition of each instruction, after its fetch (R63, R250, R257): at most one each. -/
def faultCondition : Instr → State → Option FaultCause
  | .call _, s => if s.sp.val = 16 then some .stackOverflow else none
  | .ret, s => if s.sp.val = 0 then some .stackUnderflow else none
  | .drw _ _ n, s => if 1 ≤ n.val ∧ s.i.toNat + n.val - 1 > 0xFFF then some .memRangeData else none
  | .ldBVx _, s => if s.i.toNat + 2 > 0xFFF then some .memRangeData else none
  | .ldMemVx x, s => if s.i.toNat + x.val > 0xFFF then some .memRangeData else none
  | .ldVxMem x, s => if s.i.toNat + x.val > 0xFFF then some .memRangeData else none
  | .cls, _ => none
  | .jp _, _ => none
  | .seImm _ _, _ => none
  | .sneImm _ _, _ => none
  | .seReg _ _, _ => none
  | .ldImm _ _, _ => none
  | .addImm _ _, _ => none
  | .ldReg _ _, _ => none
  | .orReg _ _, _ => none
  | .andReg _ _, _ => none
  | .xorReg _ _, _ => none
  | .addReg _ _, _ => none
  | .sub _ _, _ => none
  | .shr _ _, _ => none
  | .subn _ _, _ => none
  | .shl _ _, _ => none
  | .sneReg _ _, _ => none
  | .ldI _, _ => none
  | .jpV0 _, _ => none
  | .rnd _ _, _ => none
  | .skp _, _ => none
  | .sknp _, _ => none
  | .ldVxDt _, _ => none
  | .ldVxK _, _ => none
  | .ldDtVx _, _ => none
  | .ldStVx _, _ => none
  | .addIVx _, _ => none
  | .ldFVx _, _ => none
  | .nopUnknown _, _ => none

/-- Which registers an instruction that does not fault may change (R22, R37): its destination Vx, the range V0..Vx of
FX65, and VF for the instructions that write a flag. -/
def mayWriteReg : Instr → RegIdx → Bool
  | .ldImm x _, r => r == x
  | .addImm x _, r => r == x
  | .ldReg x _, r => r == x
  | .rnd x _, r => r == x
  | .ldVxDt x, r => r == x
  | .ldVxK x, r => r == x
  | .ldVxMem x, r => decide (r.val ≤ x.val)
  | .orReg x _, r => r == x || r == vf
  | .andReg x _, r => r == x || r == vf
  | .xorReg x _, r => r == x || r == vf
  | .addReg x _, r => r == x || r == vf
  | .sub x _, r => r == x || r == vf
  | .shr x _, r => r == x || r == vf
  | .subn x _, r => r == x || r == vf
  | .shl x _, r => r == x || r == vf
  | .drw _ _ _, r => r == vf
  | .cls, _ => false
  | .ret, _ => false
  | .jp _, _ => false
  | .call _, _ => false
  | .seImm _ _, _ => false
  | .sneImm _ _, _ => false
  | .seReg _ _, _ => false
  | .sneReg _ _, _ => false
  | .ldI _, _ => false
  | .jpV0 _, _ => false
  | .skp _, _ => false
  | .sknp _, _ => false
  | .ldDtVx _, _ => false
  | .ldStVx _, _ => false
  | .addIVx _, _ => false
  | .ldFVx _, _ => false
  | .ldBVx _, _ => false
  | .ldMemVx _, _ => false
  | .nopUnknown _, _ => false

/-- The shape of an instruction "Vx = ..; VF = ..": it completes, VF ends as the flag whatever x is, V[x] ends as the
result unless x = 0xF, every other register and all other state is unchanged (R173). -/
def WritesResultThenFlag (i : Instr) (x : RegIdx) (result flag : Nat) (s : State) : Prop :=
  ∃ t : State, exec i s = .next t ∧ (t.reg vf).toNat = flag ∧ (x ≠ vf → (t.reg x).toNat = result) ∧
    (∀ r : RegIdx, r ≠ x → r ≠ vf → t.reg r = s.reg r) ∧ t = { s with v := t.v }

/-- The shape of an instruction that writes one register: it completes, V[x] holds the value, every other register and
all other state is unchanged. -/
def WritesOneRegister (i : Instr) (x : RegIdx) (value : Nat) (s : State) : Prop :=
  ∃ t : State, exec i s = .next t ∧ (t.reg x).toNat = value ∧ (∀ r : RegIdx, r ≠ x → t.reg r = s.reg r) ∧
    t = { s with v := t.v }

/-- The shape of an instruction that only sets PC: it completes, PC holds the address, all other state is unchanged. -/
def SetsPcOnly (i : Instr) (target : Nat) (s : State) : Prop :=
  ∃ t : State, exec i s = .next t ∧ t.pc.toNat = target ∧ t = { s with pc := t.pc }

/-- The sprite bit that lands on the pixel at row r, column c of a draw of n rows from `base` at (x0, y0): 1 inside
the 8 columns and n rows of the sprite where the byte has a 1, most significant bit leftmost (R212). -/
def spriteBit (m : Memory) (base x0 y0 n r c : Nat) : Bool :=
  decide (y0 ≤ r ∧ r < y0 + n ∧ x0 ≤ c ∧ c < x0 + 8) && (m.read (base + (r - y0))).getLsbD (7 - (c - x0))

/-- The byte at address a after a store of `len` bytes from `base` on, the k-th of which is `stored k`: the stored byte inside
the span, the old one outside it (R70). -/
def byteAfterStore (before : Memory) (base len : Nat) (stored : Nat → Nat) (a : Nat) : Nat :=
  if base ≤ a ∧ a < base + len then stored (a - base) else (before.read a).toNat

/-- The big-endian word at addresses a and a + 1 after such a store (R64). -/
def wordAfterStore (before : Memory) (base len : Nat) (stored : Nat → Nat) (a : Nat) : Nat :=
  byteAfterStore before base len stored a * 0x100 + byteAfterStore before base len stored (a + 1)

/-- Instructions executed one after the other, without the fetches between them: the first stop ends it. -/
def execAll : List Instr → State → Result
  | [], s => .next s
  | i :: rest, s =>
    match exec i s with
    | .next t => execAll rest t
    | .fault f => .fault f
    | .refused r => .refused r

/-- A run of events from a state, every one of which leaves FAULT = None. -/
def RunsSafely (k : Nat) (s : State) : Prop :=
  ∃ t : State, core.run k s = .next t ∧ Running t

end Sys2Proof.Machine
end

