-- ==== Sys2Proof/Certificates/Slice0/Obligations.lean ====
section
/-! DEFINITION. The statements for the provers. `exec i s` is the pseudocode of an instruction: `s.pc` already holds
a + 2 (00_scope.md R12). A frame is written `t = { s with f := t.f, .. }`: every field of the state but the named
ones, memory and every special register included, is as it was. -/

open Sys2Proof Sys2Proof.Machine

/-! ## Encoding -/

/-- Decoding the two bytes of an encoded well-formed instruction, whatever follows them, gives the instruction back
and leaves what follows (R64, R90, R91, R94, R96). -/
def Obligations.DecodeOfEncodeIsIdentity : Prop :=
  ∀ (i : Instr) (rest : List Byte), i.wellFormed = true →
    decode (bytesOfWord (encode i) ++ rest) = .ok (i, rest)

/-- Encoding what a word decodes to gives the word back with an ignored nibble cleared: W[11:8] of 0XE0 and 0XEE, W[3:0]
of groups 0x5 and 0x9. That those nibbles are ignored is the spec's own decision D10 (log 13). -/
def Obligations.EncodeOfDecodeIsCanonicalWord : Prop :=
  ∀ w : Word,
    (encode (decodeWord w)).toNat =
      if w.toNat / 0x1000 = 0x0 ∧ (w.toNat % 0x100 = 0xE0 ∨ w.toNat % 0x100 = 0xEE) then w.toNat % 0x100
      else if w.toNat / 0x1000 = 0x5 ∨ w.toNat / 0x1000 = 0x9 then w.toNat / 0x10 * 0x10
      else w.toNat

/-- The rows of R94 are pairwise disjoint, and the decoder agrees with them: a word that matches a row decodes to that
row's instruction, a word that matches none to the unknown opcode, and those are exactly the words of R96 (R101). -/
def Obligations.EveryWordDecodesAsItsTableRow : Prop :=
  (∀ w : Word, ∀ row ∈ opcodeMap, ∀ row' ∈ opcodeMap,
      w &&& row.2.1 = row.1 → w &&& row'.2.1 = row'.1 → row = row') ∧
  (∀ w : Word, ∀ row ∈ opcodeMap, w &&& row.2.1 = row.1 → mnemonic (decodeWord w) = row.2.2) ∧
  (∀ w : Word, (∀ row ∈ opcodeMap, w &&& row.2.1 ≠ row.1) → decodeWord w = .nopUnknown w) ∧
  (∀ w : Word, isUnknownWord w = true ↔ ∀ row ∈ opcodeMap, w &&& row.2.1 ≠ row.1)

/-- Every word decodes to a well-formed instruction (R101). -/
def Obligations.DecodingIsAlwaysWellFormed : Prop :=
  ∀ w : Word, (decodeWord w).wellFormed = true

/-- The six fields of a word (R91): op, x, y, n are its four nibbles, NN is y and n together, NNN is x, y and n together. -/
def Obligations.WordIsItsFields : Prop :=
  ∀ w : Word,
    w.toNat = (opField w).toNat * 0x1000 + (xField w).val * 0x100 + (yField w).val * 0x10 + (nField w).val ∧
    (nnField w).toNat = (yField w).val * 0x10 + (nField w).val ∧
    (nnnField w).toNat = (xField w).val * 0x100 + (yField w).val * 0x10 + (nField w).val

/-- A few words written out from the encodings of the spec (R94), one or more of each family. -/
def Obligations.SpecWordsDecode : Prop :=
  decodeWord 0x00E0#16 = .cls ∧ decodeWord 0x1ABC#16 = .jp 0xABC#12 ∧ decodeWord 0x8124#16 = .addReg 1 2 ∧
  decodeWord 0x7102#16 = .addImm 1 0x02#8 ∧ decodeWord 0xF255#16 = .ldMemVx 2 ∧ decodeWord 0xD125#16 = .drw 1 2 5 ∧
  decodeWord 0xE19E#16 = .skp 1 ∧ decodeWord 0xF20A#16 = .ldVxK 2 ∧ decodeWord 0x0123#16 = .nopUnknown 0x0123#16

/-! ## The step -/

/-- Instruction fetch is big-endian (R64): the byte at the lower address is the more significant byte of the word, and
the fields lie in the two bytes as the rule says. -/
def Obligations.FetchIsBigEndian : Prop :=
  ∀ s : State, s.pc.toNat ≤ 0xFFE → ∃ w : Word, fetchWord s = some w ∧
    w.toNat = (s.mem.read s.pc.toNat).toNat * 0x100 + (s.mem.read (s.pc.toNat + 1)).toNat ∧
    (opField w).toNat = (s.mem.read s.pc.toNat).toNat / 16 ∧ (xField w).val = (s.mem.read s.pc.toNat).toNat % 16 ∧
    (yField w).val = (s.mem.read (s.pc.toNat + 1)).toNat / 16 ∧
    (nField w).val = (s.mem.read (s.pc.toNat + 1)).toNat % 16 ∧ nnField w = s.mem.read (s.pc.toNat + 1)

/-- When a step is enabled and the two bytes at PC decode to i, `step` is the PC advance, `exec i`, and SC <- SC + 1
unless the instruction raised a fault (R120 to R124; conflict C14, log 19). -/
def Obligations.StepRunsTheDecodedInstruction : Prop :=
  ∀ (s : State) (i : Instr), s.fault = none → s.sc < s.ipt → s.pc.toNat ≤ 0xFFE →
    decode (s.mem.readBytes s.pc.toNat 2) = .ok (i, []) →
    ∃ t : State, exec i { s with pc := s.pc + 2 } = .next t ∧
      (t.fault = none → step s = .next { t with sc := t.sc + 1 }) ∧ (t.fault ≠ none → step s = .next t)

/-- With no fault recorded the machine always has a next state: no event is refused and none stops it (R101, R120, R255). -/
def Obligations.RunningMachineAlwaysSteps : Prop :=
  ∀ s : State, s.fault = none → ∃ t : State, step s = .next t

/-- A fetch with PC > 0xFFE raises MemRangeFetch: FAULT is set, PC and everything else is unchanged (R121; the fault
instead of a wrap is decision D2, log 10). -/
def Obligations.FetchBeyondMemoryFaults : Prop :=
  ∀ s : State, s.fault = none → s.sc < s.ipt → 0xFFE < s.pc.toNat →
    step s = .next { s with fault := some .memRangeFetch }

/-- A halted machine has no event: from a state with a fault recorded no run of one or more events has a next state (R258;
decision D5; that `step` reports the stuck state as `Fault.halted` is the model's, log 1). -/
def Obligations.HaltedMachineIsStuck : Prop :=
  ∀ (s : State) (f : FaultCause) (k : Nat), s.fault = some f → core.run (k + 1) s = .fault (.halted f)

/-- A word placed by `withFetchWord` is what the very next step runs (model's loading convention, log 17). -/
def Obligations.PlacedWordRunsNext : Prop :=
  ∀ (s : State) (w : Nat), w < 0x10000 → MemoryCanonical s →
    fetchWord (s.withFetchWord 16 w) = some (BitVec.ofNat 16 w) ∧
    decodeTableWord 16 w = some (decodeWord (BitVec.ofNat 16 w)) ∧
    step (s.withFetchWord 16 w) = runWord (BitVec.ofNat 16 w) (s.withFetchWord 16 w)

/-! ## Control flow -/

/-- 1NNN sets PC and ANNN sets I to NNN zero-extended, and nothing else; 1FFF is accepted and leaves no word to fetch; a step on
a jump to itself changes nothing but SC (R141, R190). -/
def Obligations.JumpAndIndexLoadTakeNNN : Prop :=
  ∀ (nnn : BitVec 12) (s : State),
    (decodeWord (BitVec.ofNat 16 (0x1000 + nnn.toNat)) = .jp nnn ∧ SetsPcOnly (.jp nnn) nnn.toNat s ∧
      (nnn = 0xFFF#12 → ∀ t : State, exec (.jp nnn) s = .next t → fetchWord t = none) ∧
      (s.fault = none → s.sc < s.ipt → fetchWord s = some (BitVec.ofNat 16 (0x1000 + nnn.toNat)) →
        s.pc.toNat = nnn.toNat → step s = .next { s with sc := s.sc + 1 })) ∧
    (decodeWord (BitVec.ofNat 16 (0xA000 + nnn.toNat)) = .ldI nnn ∧
      ∃ t : State, exec (.ldI nnn) s = .next t ∧ t.i.toNat = nnn.toNat ∧ t.i.toNat ≤ 0x0FFF ∧ t = { s with i := t.i })

/-- BNNN sets PC to V0 + NNN, a 16-bit sum not reduced to 12 bits (R147; decision D18, log 15). -/
def Obligations.OffsetJumpAddsV0 : Prop :=
  ∀ (nnn : BitVec 12) (s : State),
    decodeWord (BitVec.ofNat 16 (0xB000 + nnn.toNat)) = .jpV0 nnn ∧
    SetsPcOnly (.jpV0 nnn) ((s.reg 0).toNat + nnn.toNat) s

/-- 2NNN with room pushes PC (= a + 2), raises SP by 1 and jumps; with SP = 16 it raises StackOverflow and changes
nothing else (R142, R127). -/
def Obligations.CallPushesReturnAddress : Prop :=
  ∀ (nnn : BitVec 12) (s : State),
    decodeWord (BitVec.ofNat 16 (0x2000 + nnn.toNat)) = .call nnn ∧
    (s.sp.val < 16 → ∃ t : State, exec (.call nnn) s = .next t ∧ t.pc.toNat = nnn.toNat ∧ t.sp.val = s.sp.val + 1 ∧
      (∀ j : Fin 16, t.stk[j.val] = if j.val = s.sp.val then s.pc else s.stk[j.val]) ∧
      t = { s with pc := t.pc, stk := t.stk, sp := t.sp }) ∧
    (s.sp.val = 16 → exec (.call nnn) s = .next { s with fault := some .stackOverflow })

/-- 00EE pops the top entry into PC; with SP = 0 it raises StackUnderflow and changes nothing else. A push followed by a
pop returns the pushed value and restores SP (R128, R252). -/
def Obligations.ReturnPopsTopOfStack : Prop :=
  ∀ s : State,
    decodeWord 0x00EE#16 = .ret ∧
    (∀ j : Fin 16, s.sp.val = j.val + 1 → ∃ t : State, exec .ret s = .next t ∧ t.pc = s.stk[j.val] ∧ t.sp.val = j.val ∧
      t = { s with pc := t.pc, sp := t.sp }) ∧
    (s.sp.val = 0 → exec .ret s = .next { s with fault := some .stackUnderflow }) ∧
    (∀ nnn : BitVec 12, s.sp.val < 16 → ∃ t u : State, exec (.call nnn) s = .next t ∧ exec .ret t = .next u ∧
      u.pc = s.pc ∧ u.sp = s.sp)

/-- As many nested calls as the stack has room for, followed by as many returns, come back to where they began with
the stack and everything else as it was below SP; one call more on a full stack overflows (R142, R140; example S6). -/
def Obligations.NestedCallsUnwind : Prop :=
  ∀ (s : State) (targets : List (BitVec 12)), s.sp.val + targets.length ≤ 16 →
    ∃ t u : State, execAll (targets.map Instr.call) s = .next t ∧ t.sp.val = s.sp.val + targets.length ∧
      execAll (targets.map fun _ => Instr.ret) t = .next u ∧
      u.pc = s.pc ∧ u.sp = s.sp ∧ (∀ j : Fin 16, j.val < s.sp.val → u.stk[j.val] = s.stk[j.val]) ∧
      u = { s with stk := u.stk } ∧
      (s.sp.val + targets.length = 16 → ∀ nnn : BitVec 12,
        exec (.call nnn) t = .next { t with fault := some .stackOverflow })

/-- 3XNN and 4XNN add 2 to PC when V[x] = NN, respectively V[x] ≠ NN, and do nothing else (R143, R144). -/
def Obligations.ImmediateSkipsCompare : Prop :=
  ∀ (x : RegIdx) (nn : Byte) (s : State),
    (decodeWord (BitVec.ofNat 16 (0x3000 + 0x100 * x.val + nn.toNat)) = .seImm x nn ∧
      SetsPcOnly (.seImm x nn) (if (s.reg x).toNat = nn.toNat then (s.pc.toNat + 2) % 0x10000 else s.pc.toNat) s) ∧
    (decodeWord (BitVec.ofNat 16 (0x4000 + 0x100 * x.val + nn.toNat)) = .sneImm x nn ∧
      SetsPcOnly (.sneImm x nn) (if (s.reg x).toNat = nn.toNat then s.pc.toNat else (s.pc.toNat + 2) % 0x10000) s)

/-- 5XYN and 9XYN, whatever N is, add 2 to PC when V[x] = V[y], respectively V[x] ≠ V[y], and do nothing else (R145, R146;
that N is ignored is decision D10, log 13). -/
def Obligations.RegisterSkipsCompare : Prop :=
  ∀ (x y n : RegIdx) (s : State),
    (decodeWord (BitVec.ofNat 16 (0x5000 + 0x100 * x.val + 0x10 * y.val + n.val)) = .seReg x y ∧
      SetsPcOnly (.seReg x y) (if (s.reg x).toNat = (s.reg y).toNat then (s.pc.toNat + 2) % 0x10000 else s.pc.toNat) s) ∧
    (decodeWord (BitVec.ofNat 16 (0x9000 + 0x100 * x.val + 0x10 * y.val + n.val)) = .sneReg x y ∧
      SetsPcOnly (.sneReg x y) (if (s.reg x).toNat = (s.reg y).toNat then s.pc.toNat else (s.pc.toNat + 2) % 0x10000) s)

/-! ## Registers and the ALU -/

/-- 6XNN, 7XNN and 8XY0 write NN, (V[x] + NN) mod 256 and V[y] to V[x] and nothing else; no flag (R160, R161, R162). -/
def Obligations.RegisterLoadsAndImmediateAdd : Prop :=
  ∀ (x y : RegIdx) (nn : Byte) (s : State),
    (decodeWord (BitVec.ofNat 16 (0x6000 + 0x100 * x.val + nn.toNat)) = .ldImm x nn ∧
      WritesOneRegister (.ldImm x nn) x nn.toNat s) ∧
    (decodeWord (BitVec.ofNat 16 (0x7000 + 0x100 * x.val + nn.toNat)) = .addImm x nn ∧
      WritesOneRegister (.addImm x nn) x (((s.reg x).toNat + nn.toNat) % 256) s) ∧
    (decodeWord (BitVec.ofNat 16 (0x8000 + 0x100 * x.val + 0x10 * y.val)) = .ldReg x y ∧
      WritesOneRegister (.ldReg x y) x (s.reg y).toNat s)

/-- 8XY1, 8XY2, 8XY3: the bitwise result to V[x], then 0 to VF (R163, R164, R165; the order when x or y is 0xF is decision
D9, log 14). -/
def Obligations.LogicOpsClearVf : Prop :=
  ∀ (x y : RegIdx) (s : State),
    (decodeWord (BitVec.ofNat 16 (0x8001 + 0x100 * x.val + 0x10 * y.val)) = .orReg x y ∧
      WritesResultThenFlag (.orReg x y) x ((s.reg x).toNat ||| (s.reg y).toNat) 0 s) ∧
    (decodeWord (BitVec.ofNat 16 (0x8002 + 0x100 * x.val + 0x10 * y.val)) = .andReg x y ∧
      WritesResultThenFlag (.andReg x y) x ((s.reg x).toNat &&& (s.reg y).toNat) 0 s) ∧
    (decodeWord (BitVec.ofNat 16 (0x8003 + 0x100 * x.val + 0x10 * y.val)) = .xorReg x y ∧
      WritesResultThenFlag (.xorReg x y) x ((s.reg x).toNat ^^^ (s.reg y).toNat) 0 s)

/-- 8XY4, 8XY5, 8XY7: sum or difference modulo 256 to V[x], then carry or no-borrow to VF (R166, R167, R169, R172; the order
when x or y is 0xF is decision D9, log 14). -/
def Obligations.AddAndSubtractSetCarry : Prop :=
  ∀ (x y : RegIdx) (s : State),
    (decodeWord (BitVec.ofNat 16 (0x8004 + 0x100 * x.val + 0x10 * y.val)) = .addReg x y ∧
      WritesResultThenFlag (.addReg x y) x (((s.reg x).toNat + (s.reg y).toNat) % 256)
        (if (s.reg x).toNat + (s.reg y).toNat > 255 then 1 else 0) s) ∧
    (decodeWord (BitVec.ofNat 16 (0x8005 + 0x100 * x.val + 0x10 * y.val)) = .sub x y ∧
      WritesResultThenFlag (.sub x y) x
        (if (s.reg x).toNat ≥ (s.reg y).toNat then (s.reg x).toNat - (s.reg y).toNat
          else (s.reg x).toNat + 256 - (s.reg y).toNat)
        (if (s.reg x).toNat ≥ (s.reg y).toNat then 1 else 0) s) ∧
    (decodeWord (BitVec.ofNat 16 (0x8007 + 0x100 * x.val + 0x10 * y.val)) = .subn x y ∧
      WritesResultThenFlag (.subn x y) x
        (if (s.reg y).toNat ≥ (s.reg x).toNat then (s.reg y).toNat - (s.reg x).toNat
          else (s.reg y).toNat + 256 - (s.reg x).toNat)
        (if (s.reg y).toNat ≥ (s.reg x).toNat then 1 else 0) s)

/-- 8XY6 and 8XYE shift V[y], not V[x], by one into V[x], then the bit shifted out goes to VF (R168, R170, R172; the order when
x or y is 0xF is decision D9, log 14). -/
def Obligations.ShiftsCopyVyThenShift : Prop :=
  ∀ (x y : RegIdx) (s : State),
    (decodeWord (BitVec.ofNat 16 (0x8006 + 0x100 * x.val + 0x10 * y.val)) = .shr x y ∧
      WritesResultThenFlag (.shr x y) x ((s.reg y).toNat / 2) ((s.reg y).toNat % 2) s) ∧
    (decodeWord (BitVec.ofNat 16 (0x800E + 0x100 * x.val + 0x10 * y.val)) = .shl x y ∧
      WritesResultThenFlag (.shl x y) x (2 * (s.reg y).toNat % 256) ((s.reg y).toNat / 128) s)

/-- CXNN writes the random byte masked by NN to V[x]. The byte is a free input: the next one supplied if there is one,
else a constant nothing is known of, and the statement holds for every value of it (R171, R268; decision D12, log 4). -/
def Obligations.RandomByteIsMasked : Prop :=
  ∀ (x : RegIdx) (nn : Byte) (s : State),
    decodeWord (BitVec.ofNat 16 (0xC000 + 0x100 * x.val + nn.toNat)) = .rnd x nn ∧
    ∃ t : State, exec (.rnd x nn) s = .next t ∧
      (∀ (b : Byte) (later : List Byte), s.rndIn = b :: later → t.reg x = b &&& nn ∧ t.rndIn = later) ∧
      (s.rndIn = [] → t.reg x = Config.freeRnd s.rndDraws &&& nn ∧ t.rndIn = []) ∧
      (t.reg x).toNat ≤ nn.toNat ∧ (∀ k : Nat, nn.getLsbD k = false → (t.reg x).getLsbD k = false) ∧
      (∀ r : RegIdx, r ≠ x → t.reg r = s.reg r) ∧
      t = { s with v := t.v, rndIn := t.rndIn, rndDraws := s.rndDraws + 1 }

/-! ## I and memory -/

/-- FX1E adds V[x] to I modulo 2^16 and touches no flag; FX29 sets I to 0x050 + 5 * (V[x] & 0xF) (R191, R192; the 16-bit width
is decision D18, log 15). -/
def Obligations.IndexArithmetic : Prop :=
  ∀ (x : RegIdx) (s : State),
    (decodeWord (BitVec.ofNat 16 (0xF01E + 0x100 * x.val)) = .addIVx x ∧
      ∃ t : State, exec (.addIVx x) s = .next t ∧ t.i.toNat = (s.i.toNat + (s.reg x).toNat) % 0x10000 ∧
        t = { s with i := t.i }) ∧
    (decodeWord (BitVec.ofNat 16 (0xF029 + 0x100 * x.val)) = .ldFVx x ∧
      ∃ t : State, exec (.ldFVx x) s = .next t ∧ t.i.toNat = 0x050 + 5 * ((s.reg x).toNat % 16) ∧
        t = { s with i := t.i })

/-- FX33 stores the hundreds, tens and ones of V[x] at I, I + 1, I + 2 and changes no other byte and no other state; if I + 2
> 0xFFF it raises MemRangeData and changes nothing else (R193; decisions D2 and D3, logs 9 and 10). -/
def Obligations.BcdStoresThreeDigits : Prop :=
  ∀ (x : RegIdx) (s : State), MemoryCanonical s →
    decodeWord (BitVec.ofNat 16 (0xF033 + 0x100 * x.val)) = .ldBVx x ∧
    (s.i.toNat + 2 ≤ 0xFFF → ∃ t : State, exec (.ldBVx x) s = .next t ∧
      (t.mem.read s.i.toNat).toNat = (s.reg x).toNat / 100 ∧
      (t.mem.read (s.i.toNat + 1)).toNat = (s.reg x).toNat / 10 % 10 ∧
      (t.mem.read (s.i.toNat + 2)).toNat = (s.reg x).toNat % 10 ∧
      (∀ a : Nat, (a < s.i.toNat ∨ s.i.toNat + 2 < a) → t.mem.read a = s.mem.read a) ∧ t = { s with mem := t.mem }) ∧
    (s.i.toNat + 2 > 0xFFF → exec (.ldBVx x) s = .next { s with fault := some .memRangeData })

/-- FX55 stores V0..Vx at I .. I + x, then adds x + 1 to I; no other byte, no register and no other state changes. If I + x >
0xFFF it raises MemRangeData and changes nothing else (R194; decisions D2 and D3, logs 9 and 10). -/
def Obligations.RegisterDumpStoresV0ToVx : Prop :=
  ∀ (x : RegIdx) (s : State), MemoryCanonical s →
    decodeWord (BitVec.ofNat 16 (0xF055 + 0x100 * x.val)) = .ldMemVx x ∧
    (s.i.toNat + x.val ≤ 0xFFF → ∃ t : State, exec (.ldMemVx x) s = .next t ∧
      (∀ k : RegIdx, k.val ≤ x.val → t.mem.read (s.i.toNat + k.val) = s.reg k) ∧
      (∀ a : Nat, (a < s.i.toNat ∨ s.i.toNat + x.val < a) → t.mem.read a = s.mem.read a) ∧
      t.i.toNat = s.i.toNat + x.val + 1 ∧ t = { s with mem := t.mem, i := t.i }) ∧
    (s.i.toNat + x.val > 0xFFF → exec (.ldMemVx x) s = .next { s with fault := some .memRangeData })

/-- FX65 loads V0..Vx from I .. I + x, then adds x + 1 to I; no other register, no byte of memory and no other state changes. If
I + x > 0xFFF it raises MemRangeData and changes nothing else (R195; decisions D2 and D3, logs 9 and 10). -/
def Obligations.RegisterLoadFillsV0ToVx : Prop :=
  ∀ (x : RegIdx) (s : State),
    decodeWord (BitVec.ofNat 16 (0xF065 + 0x100 * x.val)) = .ldVxMem x ∧
    (s.i.toNat + x.val ≤ 0xFFF → ∃ t : State, exec (.ldVxMem x) s = .next t ∧
      (∀ k : RegIdx, t.reg k = if k.val ≤ x.val then s.mem.read (s.i.toNat + k.val) else s.reg k) ∧
      t.i.toNat = s.i.toNat + x.val + 1 ∧ t = { s with v := t.v, i := t.i }) ∧
    (s.i.toNat + x.val > 0xFFF → exec (.ldVxMem x) s = .next { s with fault := some .memRangeData })

/-- Registers dumped by FX55 and loaded back by FX65 from the same address, in any later state with the same memory, are the
registers that were dumped (R194, R195). -/
def Obligations.DumpThenLoadRestoresRegisters : Prop :=
  ∀ (x : RegIdx) (s : State), MemoryCanonical s → s.i.toNat + x.val ≤ 0xFFF →
    ∃ t : State, exec (.ldMemVx x) s = .next t ∧
      ∀ u : State, u.mem = t.mem → u.i = s.i →
        ∃ w : State, exec (.ldVxMem x) u = .next w ∧ w.i = t.i ∧ ∀ k : RegIdx, k.val ≤ x.val → w.reg k = s.reg k

/-- A store is seen by the very next fetch (R71): after FX33 or FX55 has stored, a fetch at any address of memory, inside the
stored span, across either end of it or outside, gives the word of the stored bytes where it meets the span and of the old bytes
elsewhere. -/
def Obligations.StoresAreSeenByFetch : Prop :=
  ∀ (x : RegIdx) (s : State), MemoryCanonical s →
    (s.i.toNat + 2 ≤ 0xFFF → ∃ t : State, exec (.ldBVx x) s = .next t ∧
      ∀ u : State, u.mem = t.mem → u.pc.toNat ≤ 0xFFE → ∃ w : Word, fetchWord u = some w ∧
        w.toNat = wordAfterStore s.mem s.i.toNat 3 (fun k =>
          if k = 0 then (s.reg x).toNat / 100 else if k = 1 then (s.reg x).toNat / 10 % 10 else (s.reg x).toNat % 10) u.pc.toNat) ∧
    (s.i.toNat + x.val ≤ 0xFFF → ∃ t : State, exec (.ldMemVx x) s = .next t ∧
      ∀ u : State, u.mem = t.mem → u.pc.toNat ≤ 0xFFE → ∃ w : Word, fetchWord u = some w ∧
        w.toNat = wordAfterStore s.mem s.i.toNat (x.val + 1) (fun k => (s.reg (Fin.ofNat 16 k)).toNat) u.pc.toNat)

/-- Canonical memories that read alike at every address are the same list, so equal memories are equal data. -/
def Obligations.MemoriesThatReadAlikeAreEqual : Prop :=
  ∀ m m' : Memory, m.wf = true → m'.wf = true → (∀ a : Nat, a ≤ 0xFFF → m.read a = m'.read a) → m = m'

/-! ## Display -/

/-- 0XE0, whatever X is, makes every pixel false and changes nothing else (R210; that X is ignored is decision D10, log 13). -/
def Obligations.ClearBlanksEveryPixel : Prop :=
  ∀ (x : RegIdx) (s : State),
    decodeWord (BitVec.ofNat 16 (0x00E0 + 0x100 * x.val)) = .cls ∧
    ∃ t : State, exec .cls s = .next t ∧ (∀ (r : Fin 32) (c : Fin 64), t.fb[r.val][c.val] = false) ∧
      t = { s with fb := t.fb }

/-- DXYN in range: each pixel is XORed with the sprite bit that lands on it, VF is 1 exactly when some lit pixel met a
1 bit, and nothing else changes, memory and I included. Out of range (all n bytes are checked, decisions D2 and D11,
log 10) it raises MemRangeData and changes nothing else (R211 to R214; D3, log 9; VF last is decision D9, log 14). -/
def Obligations.DrawXorsSpriteAndSetsCollision : Prop :=
  ∀ (x y : RegIdx) (n : Fin 16) (s : State),
    decodeWord (BitVec.ofNat 16 (0xD000 + 0x100 * x.val + 0x10 * y.val + n.val)) = .drw x y n ∧
    (n.val = 0 ∨ s.i.toNat + n.val - 1 ≤ 0xFFF → ∃ t : State, exec (.drw x y n) s = .next t ∧
      (∀ (r : Fin 32) (c : Fin 64), t.fb[r.val][c.val] =
        xor s.fb[r.val][c.val]
          (spriteBit s.mem s.i.toNat ((s.reg x).toNat % 64) ((s.reg y).toNat % 32) n.val r.val c.val)) ∧
      ((∃ (r : Fin 32) (c : Fin 64), s.fb[r.val][c.val] = true ∧
          spriteBit s.mem s.i.toNat ((s.reg x).toNat % 64) ((s.reg y).toNat % 32) n.val r.val c.val = true) →
        (t.reg vf).toNat = 1) ∧
      ((∀ (r : Fin 32) (c : Fin 64), s.fb[r.val][c.val] = true →
          spriteBit s.mem s.i.toNat ((s.reg x).toNat % 64) ((s.reg y).toNat % 32) n.val r.val c.val = false) →
        (t.reg vf).toNat = 0) ∧
      (∀ r : RegIdx, r ≠ vf → t.reg r = s.reg r) ∧ t = { s with v := t.v, fb := t.fb }) ∧
    (1 ≤ n.val → s.i.toNat + n.val - 1 > 0xFFF → exec (.drw x y n) s = .next { s with fault := some .memRangeData })

/-- Two identical draws restore the framebuffer, and the second sets VF exactly when the first turned some pixel on (R215 (a); x
and y other than 0xF). -/
def Obligations.DrawTwiceRestoresDisplay : Prop :=
  ∀ (x y : RegIdx) (n : Fin 16) (s : State), x ≠ vf → y ≠ vf → (n.val = 0 ∨ s.i.toNat + n.val - 1 ≤ 0xFFF) →
    ∃ t u : State, exec (.drw x y n) s = .next t ∧ exec (.drw x y n) t = .next u ∧ u.fb = s.fb ∧
      ((t.reg vf).toNat ≤ 1 ∧ (u.reg vf).toNat ≤ 1) ∧
      ((u.reg vf).toNat = 1 ↔ ∃ (r : Fin 32) (c : Fin 64), s.fb[r.val][c.val] = false ∧ t.fb[r.val][c.val] = true)

/-! ## Keypad and timers -/

/-- EX9E skips if the key named by the low nibble of V[x] is pressed, EXA1 if it is not; nothing else changes (R230, R231; the
low nibble is decision D8, log 12). -/
def Obligations.KeySkipsReadSnapshot : Prop :=
  ∀ (x : RegIdx) (k : KeyIdx) (s : State), (s.reg x).toNat % 16 = k.val →
    (decodeWord (BitVec.ofNat 16 (0xE09E + 0x100 * x.val)) = .skp x ∧
      SetsPcOnly (.skp x) (if s.key[k.val] = true then (s.pc.toNat + 2) % 0x10000 else s.pc.toNat) s) ∧
    (decodeWord (BitVec.ofNat 16 (0xE0A1 + 0x100 * x.val)) = .sknp x ∧
      SetsPcOnly (.sknp x) (if s.key[k.val] = true then s.pc.toNat else (s.pc.toNat + 2) % 0x10000) s)

/-- One poll of the key-wait machine, the four rows of R233: waiting polls take PC back by 2 and change KL at most; the committing
poll writes the key number to V[x], clears KL and leaves PC (R232; level detection, the least key and the other keys ignored are
decisions D6, D7 and D29, log 11). -/
def Obligations.KeyWaitPolls : Prop :=
  ∀ (x : RegIdx) (s : State),
    decodeWord (BitVec.ofNat 16 (0xF00A + 0x100 * x.val)) = .ldVxK x ∧
    (s.kl = none → (∀ k : KeyIdx, s.key[k.val] = false) → exec (.ldVxK x) s = .next { s with pc := s.pc - 2 }) ∧
    (∀ k : KeyIdx, s.kl = none → s.key[k.val] = true → (∀ j : KeyIdx, j < k → s.key[j.val] = false) →
      exec (.ldVxK x) s = .next { s with pc := s.pc - 2, kl := some k }) ∧
    (∀ k : KeyIdx, s.kl = some k → s.key[k.val] = true → exec (.ldVxK x) s = .next { s with pc := s.pc - 2 }) ∧
    (∀ k : KeyIdx, s.kl = some k → s.key[k.val] = false → ∃ t : State, exec (.ldVxK x) s = .next t ∧
      (t.reg x).toNat = k.val ∧ (∀ r : RegIdx, r ≠ x → t.reg r = s.reg r) ∧ t.kl = none ∧
      t = { s with v := t.v, kl := t.kl })

/-- A wait ends: a machine waiting at FX0A with key k latched, whose next tick samples k released, be the sampled level supplied in
advance or free, has k in V[x] and the wait behind it two events later, the tick and one step (R232, R233, R263, R296; decisions D13
and D14, logs 3 and 5). -/
def Obligations.KeyReleaseEndsTheWait : Prop :=
  ∀ (x : RegIdx) (k : KeyIdx) (s : State),
    s.fault = none → BudgetSound s → s.sc = s.ipt → s.kl = some k →
    s.pc.toNat ≤ 0xFFE → decode (s.mem.readBytes s.pc.toNat 2) = .ok (.ldVxK x, []) →
    s.keyInNow[k.val] = false →
    ∃ t : State, core.run 2 s = .next t ∧ (t.reg x).toNat = k.val ∧ t.kl = none ∧
      t.pc.toNat = s.pc.toNat + 2 ∧ t.sc = 1 ∧ t.fault = none

/-- FX07 reads DT; FX15 and FX18 write DT and ST, which n ticks later have fallen by n and not below 0; `sound_active` is ST > 0
at once (R234, R235, R236). -/
def Obligations.TimerInstructionsMoveTimers : Prop :=
  ∀ (x : RegIdx) (s : State),
    (decodeWord (BitVec.ofNat 16 (0xF007 + 0x100 * x.val)) = .ldVxDt x ∧ WritesOneRegister (.ldVxDt x) x s.dt.toNat s) ∧
    (decodeWord (BitVec.ofNat 16 (0xF015 + 0x100 * x.val)) = .ldDtVx x ∧
      ∃ t : State, exec (.ldDtVx x) s = .next t ∧ t.dt = s.reg x ∧ t = { s with dt := t.dt } ∧
        ∀ n : Nat, (tick^[n] t).dt.toNat = (s.reg x).toNat - n) ∧
    (decodeWord (BitVec.ofNat 16 (0xF018 + 0x100 * x.val)) = .ldStVx x ∧
      ∃ t : State, exec (.ldStVx x) s = .next t ∧ t.st = s.reg x ∧ t = { s with st := t.st } ∧
        (soundActive t = true ↔ s.reg x ≠ 0) ∧ ∀ n : Nat, (tick^[n] t).st.toNat = (s.reg x).toNat - n)

/-- The tick event, enabled at SC = IPT with FAULT = None: each timer falls by 1 unless 0, KEY takes the key inputs (a free input),
SC becomes 0, and no other state of the spec changes (R262, R263; the schedule is decision D13, the inputs D14; logs 3 and 5). -/
def Obligations.TickAdvancesTimersAndSamplesKeys : Prop :=
  ∀ s : State, s.fault = none → s.sc = s.ipt → ∃ t : State, step s = .next t ∧
    t.dt.toNat = s.dt.toNat - 1 ∧ t.st.toNat = s.st.toNat - 1 ∧ t.sc = 0 ∧
    (∀ (levels : Keys) (later : List Keys), s.keyIn = levels :: later → t.key = levels ∧ t.keyIn = later) ∧
    (s.keyIn = [] → t.key = Config.freeKeyIn s.keyDraws ∧ t.keyIn = []) ∧
    t = { s with dt := t.dt, st := t.st, key := t.key, sc := t.sc, keyIn := t.keyIn, keyDraws := s.keyDraws + 1 }

/-! ## Unknown opcodes -/

/-- A step on an unknown word: PC <- a + 2, SC <- SC + 1 and no other change; the instruction after it is not skipped (R125). -/
def Obligations.UnknownOpcodeIsNoOp : Prop :=
  ∀ (s : State) (w : Word), isUnknownWord w = true →
    decodeWord w = .nopUnknown w ∧ exec (.nopUnknown w) s = .next s ∧
    (s.fault = none → s.sc < s.ipt → fetchWord s = some w →
      step s = .next { s with pc := s.pc + 2, sc := s.sc + 1 } ∧ (s.pc + 2).toNat = s.pc.toNat + 2)

/-! ## Faults -/

/-- Every instruction in every state answers a next state, and raises exactly the fault of R63 and R250 under exactly its condition;
a raise changes FAULT alone (R250 to R257). That a range beyond memory faults is decision D2 and that all n bytes of a clipped draw
are checked is D11, log 10; that a raise changes nothing else is D3, log 9. -/
def Obligations.InstructionsFaultExactlyAsListed : Prop :=
  ∀ (i : Instr) (s : State), ∃ t : State, exec i s = .next t ∧
    (∀ f : FaultCause, faultCondition i s = some f → t = { s with fault := some f }) ∧
    (faultCondition i s = none → t.fault = s.fault)

/-- After a faulting step everything but FAULT and PC is as before it: PC stays at a for MemRangeFetch and is a + 2 for the
other three; SC is not incremented (R256; decision D3, log 9). -/
def Obligations.FaultingStepIsPrecise : Prop :=
  ∀ (s t : State) (f : FaultCause), step s = .next t → t.fault = some f →
    t = { s with fault := some f, pc := if f = .memRangeFetch then s.pc else s.pc + 2 }

/-! ## Rules over the whole machine -/

/-- Who writes what (R37): memory only FX33 and FX55, FB only 00E0 and DXYN, DT only FX15, ST only FX18, KL only FX0A, the stack only
2NNN and 00EE, I only ANNN, FX1E, FX29, FX55, FX65; no instruction writes KEY, SC, IPT or the key inputs; only CXNN draws a byte. -/
def Obligations.OnlyNamedInstructionsWriteState : Prop :=
  ∀ (i : Instr) (s t : State), exec i s = .next t →
    (t.mem ≠ s.mem → ∃ x, i = .ldBVx x ∨ i = .ldMemVx x) ∧
    (t.fb ≠ s.fb → i = .cls ∨ ∃ x y n, i = .drw x y n) ∧
    (t.dt ≠ s.dt → ∃ x, i = .ldDtVx x) ∧ (t.st ≠ s.st → ∃ x, i = .ldStVx x) ∧
    (t.kl ≠ s.kl → ∃ x, i = .ldVxK x) ∧
    ((t.stk ≠ s.stk ∨ t.sp ≠ s.sp) → i = .ret ∨ ∃ nnn, i = .call nnn) ∧
    (t.i ≠ s.i → (∃ nnn, i = .ldI nnn) ∨ ∃ x, i = .addIVx x ∨ i = .ldFVx x ∨ i = .ldMemVx x ∨ i = .ldVxMem x) ∧
    ((t.rndIn ≠ s.rndIn ∨ t.rndDraws ≠ s.rndDraws) → ∃ x nn, i = .rnd x nn) ∧
    t.key = s.key ∧ t.sc = s.sc ∧ t.ipt = s.ipt ∧ t.keyIn = s.keyIn ∧ t.keyDraws = s.keyDraws

/-- A register changes only as R22 and R37 allow: the destination of the instruction, the range V0..Vx of FX65, or VF for an
instruction with a flag, which then is 0 or 1 unless the draw faulted. -/
def Obligations.RegistersChangeOnlyAsNamed : Prop :=
  ∀ (i : Instr) (s t : State), exec i s = .next t →
    (∀ r : RegIdx, t.reg r ≠ s.reg r → mayWriteReg i r = true) ∧
    (∀ x y : RegIdx, (i = .orReg x y ∨ i = .andReg x y ∨ i = .xorReg x y ∨ i = .addReg x y ∨ i = .sub x y ∨
      i = .shr x y ∨ i = .subn x y ∨ i = .shl x y) → (t.reg vf).toNat ≤ 1) ∧
    (∀ (x y : RegIdx) (n : Fin 16), i = .drw x y n → t.fault = s.fault → faultCondition i s = none →
      (t.reg vf).toNat ≤ 1)

/-- ST influences nothing but itself: runs of any length from states that differ in ST alone stop alike or stay equal but for ST
(R27, "no instruction reads it"). -/
def Obligations.SoundTimerInfluencesNothing : Prop :=
  ∀ (k : Nat) (s : State) (b : Byte),
    (∃ t t' : State, core.run k s = .next t ∧ core.run k { s with st := b } = .next t' ∧ t' = { t with st := t'.st }) ∨
    (∃ f : Fault, core.run k s = .fault f ∧ core.run k { s with st := b } = .fault f)

/-- Popped stack slots cannot be observed: runs of any length from states that agree but for entries at index SP and above stop
alike or agree in the same way (R25; log 16). -/
def Obligations.PoppedEntriesAreUnobservable : Prop :=
  ∀ (k : Nat) (s : State) (stk : Vector Addr 16), (∀ j : Fin 16, j.val < s.sp.val → stk[j.val] = s.stk[j.val]) →
    (∃ t t' : State, core.run k s = .next t ∧ core.run k { s with stk := stk } = .next t' ∧
      t' = { t with stk := t'.stk } ∧ ∀ j : Fin 16, j.val < t.sp.val → t'.stk[j.val] = t.stk[j.val]) ∨
    (∃ f : Fault, core.run k s = .fault f ∧ core.run k { s with stk := stk } = .fault f)

/-- The schedule: from a state at which a tick is due, a run of k events that meets no fault is Tick, Step * IPT, Tick, ..: it
holds one tick for each started frame of 1 + IPT events, and SC counts the steps since the last (R264; exactness and tick first
are decision D13, log 3). Ticks are counted by `keyDraws`. -/
def Obligations.FramesAreOneTickAndIptSteps : Prop :=
  ∀ (k : Nat) (s t : State), 1 ≤ s.ipt → s.sc = s.ipt → core.run k s = .next t → t.fault = none →
    t.ipt = s.ipt ∧ t.keyDraws = s.keyDraws + (k + s.ipt) / (s.ipt + 1) ∧
    t.sc = if k % (s.ipt + 1) = 0 then s.ipt else k % (s.ipt + 1) - 1

/-- A finished program stays finished: every later event leaves all of the spec's state but DT, ST, KEY and SC as it is (R294, offered
by the spec as its own decision D24, log 28). -/
def Obligations.FinishedProgramIsFinal : Prop :=
  ∀ (k : Nat) (s : State), finished s = true → ∃ t : State, core.run k s = .next t ∧ finished t = true ∧
    t = { s with dt := t.dt, st := t.st, key := t.key, sc := t.sc, keyIn := t.keyIn, keyDraws := t.keyDraws }

/-! ## Invariants -/

/-- The reset state satisfies every invariant, and is what reset and load gives for the reference IPT, the default font and an empty
program image (R35, R290). PC = 0x200 is decision D1, log 8; SC = IPT is decision D13, log 3; IPT = 15 is the model's choice of the
reference value, log 2; the font is presumed, log 6. -/
def Obligations.ResetStateIsSafe : Prop :=
  SafeState State.reset ∧ Running State.reset ∧ State.reset.pc = 0x200#16 ∧ State.reset.sc = 15 ∧
  resetAndLoad 15 Params.font [] = some State.reset

/-- Every event keeps memory in its canonical form. -/
def Obligations.EveryEventKeepsMemoryCanonical : Prop :=
  ∀ s t : State, MemoryCanonical s → step s = .next t → MemoryCanonical t

/-- Every event keeps SC within 0..IPT (R33). -/
def Obligations.EveryEventKeepsBudget : Prop :=
  ∀ s t : State, BudgetSound s → step s = .next t → BudgetSound t

/-- While KL is not none PC points at an FX0A: every event keeps it (R29). -/
def Obligations.EveryEventKeepsLatchAtKeyWait : Prop :=
  ∀ s t : State, LatchAtKeyWait s → step s = .next t → LatchAtKeyWait t

/-- PC stays at most 0x10FE and every valid stack entry stays a return address 0x002..0x1000: every event keeps both (R24, R140,
R147; that BNNN is not reduced to 12 bits is decision D18, log 15, that no fetch wraps is D2, log 10). -/
def Obligations.EveryEventKeepsControlInRange : Prop :=
  ∀ s t : State, ControlInRange s → step s = .next t → ControlInRange t

/-- Every state of every run from a loaded machine is safe, whatever the IPT, font and program image (R290; all inputs free). -/
def Obligations.LoadedMachineStaysSafe : Prop :=
  ∀ (ipt : Nat) (font program : List Byte) (s : State), resetAndLoad ipt font program = some s →
    ∀ (k : Nat) (t : State), core.run k s = .next t → SafeState t

/-! ## Reset, load and outputs -/

/-- Reset and load (R290, R35): for an IPT of at least 1, a well-shaped font and an image of at most 3584 bytes the machine starts, with
the values of R35: memory holds the font at 0x050, the image at 0x200 and 0x00 elsewhere, PC = 0x200, SC = IPT, everything else zero or
empty. PC and SC are decisions D1 and D13 (logs 3 and 8), 0x00 elsewhere is D19 (log 7). -/
def Obligations.ResetAndLoadGivesListedState : Prop :=
  ∀ (ipt : Nat) (font program : List Byte), 1 ≤ ipt → fontImageOk font = true → program.length ≤ 3584 →
    ∃ s : State, resetAndLoad ipt font program = some s ∧
      (∀ a : Nat, a ≤ 0xFFF → s.mem.read a =
        if 0x050 ≤ a ∧ a ≤ 0x09F then font.getD (a - 0x050) 0
        else if 0x200 ≤ a ∧ a < 0x200 + program.length then program.getD (a - 0x200) 0 else 0) ∧
      (∀ r : RegIdx, s.reg r = 0) ∧ s.i = 0 ∧ s.pc = 0x200#16 ∧ s.sp.val = 0 ∧ (∀ j : Fin 16, s.stk[j.val] = 0) ∧
      s.dt = 0 ∧ s.st = 0 ∧ (∀ k : KeyIdx, s.key[k.val] = false) ∧ s.kl = none ∧
      (∀ (r : Fin 32) (c : Fin 64), s.fb[r.val][c.val] = false) ∧ s.fault = none ∧ s.sc = ipt ∧ s.ipt = ipt

/-- The loader refuses a program image of more than 3584 bytes: the core never starts (R292). That it refuses a font that is not 80
bytes long as well is the model's inference, log 22: the spec says of the font only that its load may fail. -/
def Obligations.OversizedImagesAreRefused : Prop :=
  ∀ (ipt : Nat) (font program : List Byte), (3584 < program.length ∨ font.length ≠ 80) →
    resetAndLoad ipt font program = none

/-- The outputs (R36): `fb` is the 2048 pixels, pixel (cx, cy) at index 64 * cy + cx; `sound_active` is ST > 0; `fault` is 0 exactly when
not halted, and distinguishes the four causes by the codes of R32 (the order is decision D21, the codes D4; log 24). -/
def Obligations.OutputsShowTheState : Prop :=
  ∀ s : State,
    (fbOut s).length = 2048 ∧
    (∀ (cy : Fin 32) (cx : Fin 64), (fbOut s).getD (64 * cy.val + cx.val) false = s.fb[cy.val][cx.val]) ∧
    (soundActive s = true ↔ 0 < s.st.toNat) ∧ (halted s = true ↔ s.fault ≠ none) ∧
    (faultCode s = 0 ↔ halted s = false) ∧ (s.fault = some .stackOverflow ↔ faultCode s = 1) ∧
    (s.fault = some .stackUnderflow ↔ faultCode s = 2) ∧ (s.fault = some .memRangeFetch ↔ faultCode s = 3) ∧
    (s.fault = some .memRangeData ↔ faultCode s = 4)
end

