-- ==== Sys2Proof/Laws/Memory.lean ====
section
/-! SUPPORT. The laws of memory: every operation keeps the canonical form, a read after a write gives the value
written, and a write leaves every other byte alone (00_scope.md R10, 20_memory.md R69, R70). -/

namespace Sys2Proof.Machine

theorem Memory.wfFrom_cons {lo c : Nat} {b : Byte} {m : Memory} :
    Memory.wfFrom lo ((c, b) :: m) = true ↔
      lo ≤ c ∧ c ≤ 0xFFF ∧ b ≠ Memory.unlisted c ∧ Memory.wfFrom (c + 1) m = true := by
  simp [Memory.wfFrom, and_assoc]

theorem Memory.wfFrom_mono {m : Memory} {lo lo' : Nat} (h : Memory.wfFrom lo m = true) (hle : lo' ≤ lo) :
    Memory.wfFrom lo' m = true := by
  cases m with
  | nil => rfl
  | cons cell rest =>
    obtain ⟨c, b⟩ := cell
    rw [Memory.wfFrom_cons] at *
    exact ⟨by omega, h.2⟩

/-- An address below every cell is unlisted. -/
theorem Memory.read_below {m : Memory} {lo a : Nat} (h : Memory.wfFrom lo m = true) (ha : a < lo) :
    m.read a = Memory.unlisted a := by
  induction m generalizing lo with
  | nil => rfl
  | cons cell rest ih =>
    obtain ⟨c, b⟩ := cell
    rw [Memory.wfFrom_cons] at h
    rw [Memory.read, if_neg (by omega)]
    exact ih h.2.2.2 (by omega)

theorem Memory.wfFrom_write {m : Memory} {lo a : Nat} (b : Byte) (h : Memory.wfFrom lo m = true) (hlo : lo ≤ a)
    (ha : a ≤ 0xFFF) : Memory.wfFrom lo (m.write a b) = true := by
  induction m generalizing lo with
  | nil =>
    unfold Memory.write
    split
    · rfl
    · rw [Memory.wfFrom_cons]; exact ⟨hlo, ha, by assumption, rfl⟩
  | cons cell rest ih =>
    obtain ⟨c, d⟩ := cell
    rw [Memory.wfFrom_cons] at h
    obtain ⟨h1, h2, h3, h4⟩ := h
    unfold Memory.write
    split
    · split
      · rw [Memory.wfFrom_cons]; exact ⟨h1, h2, h3, h4⟩
      · rw [Memory.wfFrom_cons, Memory.wfFrom_cons]
        exact ⟨hlo, ha, by assumption, by omega, h2, h3, h4⟩
    · split
      · split
        · exact Memory.wfFrom_mono h4 (by omega)
        · rw [Memory.wfFrom_cons]; subst_vars; exact ⟨hlo, ha, by assumption, h4⟩
      · rw [Memory.wfFrom_cons]; exact ⟨h1, h2, h3, ih h4 (by omega)⟩

theorem Memory.read_write_from {m : Memory} {lo : Nat} (a : Nat) (b : Byte) (h : Memory.wfFrom lo m = true) (c : Nat) :
    (m.write a b).read c = if c = a then b else m.read c := by
  induction m generalizing lo with
  | nil =>
    unfold Memory.write
    split
    · simp only [Memory.read]; split <;> simp_all
    · simp only [Memory.read]
  | cons cell rest ih =>
    obtain ⟨e, d⟩ := cell
    have h' := h
    rw [Memory.wfFrom_cons] at h
    obtain ⟨h1, h2, h3, h4⟩ := h
    unfold Memory.write
    split
    · split
      · by_cases hc : c = a
        · subst hc
          rw [if_pos rfl, Memory.read, if_neg (by omega), Memory.read_below h4 (by omega)]
          exact Eq.symm (by assumption)
        · rw [if_neg hc]
      · simp only [Memory.read]
    · split
      · subst_vars
        split
        · by_cases hc : c = e
          · subst hc
            rw [if_pos rfl, Memory.read_below h4 (by omega)]
            exact Eq.symm (by assumption)
          · rw [if_neg hc, Memory.read, if_neg hc]
        · simp only [Memory.read]; split <;> rfl
      · rw [Memory.read, ih h4, Memory.read]
        by_cases hc : c = e
        · rw [if_pos hc, if_neg (by omega), if_pos hc]
        · rw [if_neg hc, if_neg hc]

/-- Everything one write does. -/
theorem Memory.read_write {m : Memory} (h : m.wf = true) (a : Nat) (b : Byte) (c : Nat) :
    (m.write a b).read c = if c = a then b else m.read c :=
  Memory.read_write_from a b h c

theorem Memory.wf_write {m : Memory} (h : m.wf = true) {a : Nat} (b : Byte) (ha : a ≤ 0xFFF) :
    (m.write a b).wf = true :=
  Memory.wfFrom_write b h (Nat.zero_le a) ha

theorem Memory.wf_writeBytes {m : Memory} (h : m.wf = true) {a : Nat} {bs : List Byte} (ha : a + bs.length ≤ 0x1000) :
    (m.writeBytes a bs).wf = true := by
  induction bs generalizing m a with
  | nil => exact h
  | cons b bs ih =>
    simp only [List.length_cons] at ha
    exact ih (Memory.wf_write h b (by omega)) (by omega)

/-- Everything a multi-byte write does: the stored bytes, and every other byte as before. -/
theorem Memory.read_writeBytes {m : Memory} (h : m.wf = true) {a : Nat} {bs : List Byte}
    (ha : a + bs.length ≤ 0x1000) (c : Nat) :
    (m.writeBytes a bs).read c = if a ≤ c ∧ c < a + bs.length then bs.getD (c - a) 0 else m.read c := by
  induction bs generalizing m a with
  | nil => rw [Memory.writeBytes, if_neg (by simp)]
  | cons b bs ih =>
    simp only [List.length_cons] at ha ⊢
    rw [Memory.writeBytes, ih (Memory.wf_write h b (by omega)) (by omega), Memory.read_write h]
    by_cases hc : c = a
    · subst hc
      rw [if_neg (by omega), if_pos rfl, if_pos (by omega), Nat.sub_self]; rfl
    · by_cases hin : a + 1 ≤ c ∧ c < a + 1 + bs.length
      · rw [if_pos hin, if_pos (by omega), show c - a = (c - (a + 1)) + 1 by omega, List.getD_cons_succ]
      · rw [if_neg hin, if_neg hc, if_neg (by omega)]

theorem Memory.readBytes_length (m : Memory) (a n : Nat) : (m.readBytes a n).length = n := by
  induction n generalizing a with
  | zero => rfl
  | succ n ih => simp [Memory.readBytes, ih]

theorem Memory.wf_reset : State.reset.mem.wf = true := rfl

end Sys2Proof.Machine
end

