-- ==== Sys2Proof/Laws/State.lean ====
section
/-! SUPPORT. What each named update of State does to each field: one lemma per field per update, so that no later
proof unfolds a record update. -/

namespace Sys2Proof.Machine

variable (s : State)

section setRegFields

variable (x : RegIdx) (b : Byte)

@[simp] theorem State.setReg_v : (s.setReg x b).v = s.v.set x.val b x.isLt := rfl
@[simp] theorem State.setReg_i : (s.setReg x b).i = s.i := rfl
@[simp] theorem State.setReg_pc : (s.setReg x b).pc = s.pc := rfl
@[simp] theorem State.setReg_stk : (s.setReg x b).stk = s.stk := rfl
@[simp] theorem State.setReg_sp : (s.setReg x b).sp = s.sp := rfl
@[simp] theorem State.setReg_dt : (s.setReg x b).dt = s.dt := rfl
@[simp] theorem State.setReg_st : (s.setReg x b).st = s.st := rfl
@[simp] theorem State.setReg_key : (s.setReg x b).key = s.key := rfl
@[simp] theorem State.setReg_kl : (s.setReg x b).kl = s.kl := rfl
@[simp] theorem State.setReg_fb : (s.setReg x b).fb = s.fb := rfl
@[simp] theorem State.setReg_mem : (s.setReg x b).mem = s.mem := rfl
@[simp] theorem State.setReg_fault : (s.setReg x b).fault = s.fault := rfl
@[simp] theorem State.setReg_sc : (s.setReg x b).sc = s.sc := rfl
@[simp] theorem State.setReg_ipt : (s.setReg x b).ipt = s.ipt := rfl
@[simp] theorem State.setReg_rndIn : (s.setReg x b).rndIn = s.rndIn := rfl
@[simp] theorem State.setReg_rndDraws : (s.setReg x b).rndDraws = s.rndDraws := rfl
@[simp] theorem State.setReg_keyIn : (s.setReg x b).keyIn = s.keyIn := rfl
@[simp] theorem State.setReg_keyDraws : (s.setReg x b).keyDraws = s.keyDraws := rfl

end setRegFields

section setRegsFields

variable (r : RegFile)

@[simp] theorem State.setRegs_v : (s.setRegs r).v = r := rfl
@[simp] theorem State.setRegs_i : (s.setRegs r).i = s.i := rfl
@[simp] theorem State.setRegs_pc : (s.setRegs r).pc = s.pc := rfl
@[simp] theorem State.setRegs_stk : (s.setRegs r).stk = s.stk := rfl
@[simp] theorem State.setRegs_sp : (s.setRegs r).sp = s.sp := rfl
@[simp] theorem State.setRegs_dt : (s.setRegs r).dt = s.dt := rfl
@[simp] theorem State.setRegs_st : (s.setRegs r).st = s.st := rfl
@[simp] theorem State.setRegs_key : (s.setRegs r).key = s.key := rfl
@[simp] theorem State.setRegs_kl : (s.setRegs r).kl = s.kl := rfl
@[simp] theorem State.setRegs_fb : (s.setRegs r).fb = s.fb := rfl
@[simp] theorem State.setRegs_mem : (s.setRegs r).mem = s.mem := rfl
@[simp] theorem State.setRegs_fault : (s.setRegs r).fault = s.fault := rfl
@[simp] theorem State.setRegs_sc : (s.setRegs r).sc = s.sc := rfl
@[simp] theorem State.setRegs_ipt : (s.setRegs r).ipt = s.ipt := rfl
@[simp] theorem State.setRegs_rndIn : (s.setRegs r).rndIn = s.rndIn := rfl
@[simp] theorem State.setRegs_rndDraws : (s.setRegs r).rndDraws = s.rndDraws := rfl
@[simp] theorem State.setRegs_keyIn : (s.setRegs r).keyIn = s.keyIn := rfl
@[simp] theorem State.setRegs_keyDraws : (s.setRegs r).keyDraws = s.keyDraws := rfl

end setRegsFields

section setIFields

variable (a : Addr)

@[simp] theorem State.setI_v : (s.setI a).v = s.v := rfl
@[simp] theorem State.setI_i : (s.setI a).i = a := rfl
@[simp] theorem State.setI_pc : (s.setI a).pc = s.pc := rfl
@[simp] theorem State.setI_stk : (s.setI a).stk = s.stk := rfl
@[simp] theorem State.setI_sp : (s.setI a).sp = s.sp := rfl
@[simp] theorem State.setI_dt : (s.setI a).dt = s.dt := rfl
@[simp] theorem State.setI_st : (s.setI a).st = s.st := rfl
@[simp] theorem State.setI_key : (s.setI a).key = s.key := rfl
@[simp] theorem State.setI_kl : (s.setI a).kl = s.kl := rfl
@[simp] theorem State.setI_fb : (s.setI a).fb = s.fb := rfl
@[simp] theorem State.setI_mem : (s.setI a).mem = s.mem := rfl
@[simp] theorem State.setI_fault : (s.setI a).fault = s.fault := rfl
@[simp] theorem State.setI_sc : (s.setI a).sc = s.sc := rfl
@[simp] theorem State.setI_ipt : (s.setI a).ipt = s.ipt := rfl
@[simp] theorem State.setI_rndIn : (s.setI a).rndIn = s.rndIn := rfl
@[simp] theorem State.setI_rndDraws : (s.setI a).rndDraws = s.rndDraws := rfl
@[simp] theorem State.setI_keyIn : (s.setI a).keyIn = s.keyIn := rfl
@[simp] theorem State.setI_keyDraws : (s.setI a).keyDraws = s.keyDraws := rfl

end setIFields

section setPcFields

variable (a : Addr)

@[simp] theorem State.setPc_v : (s.setPc a).v = s.v := rfl
@[simp] theorem State.setPc_i : (s.setPc a).i = s.i := rfl
@[simp] theorem State.setPc_pc : (s.setPc a).pc = a := rfl
@[simp] theorem State.setPc_stk : (s.setPc a).stk = s.stk := rfl
@[simp] theorem State.setPc_sp : (s.setPc a).sp = s.sp := rfl
@[simp] theorem State.setPc_dt : (s.setPc a).dt = s.dt := rfl
@[simp] theorem State.setPc_st : (s.setPc a).st = s.st := rfl
@[simp] theorem State.setPc_key : (s.setPc a).key = s.key := rfl
@[simp] theorem State.setPc_kl : (s.setPc a).kl = s.kl := rfl
@[simp] theorem State.setPc_fb : (s.setPc a).fb = s.fb := rfl
@[simp] theorem State.setPc_mem : (s.setPc a).mem = s.mem := rfl
@[simp] theorem State.setPc_fault : (s.setPc a).fault = s.fault := rfl
@[simp] theorem State.setPc_sc : (s.setPc a).sc = s.sc := rfl
@[simp] theorem State.setPc_ipt : (s.setPc a).ipt = s.ipt := rfl
@[simp] theorem State.setPc_rndIn : (s.setPc a).rndIn = s.rndIn := rfl
@[simp] theorem State.setPc_rndDraws : (s.setPc a).rndDraws = s.rndDraws := rfl
@[simp] theorem State.setPc_keyIn : (s.setPc a).keyIn = s.keyIn := rfl
@[simp] theorem State.setPc_keyDraws : (s.setPc a).keyDraws = s.keyDraws := rfl

end setPcFields

section setStackFields

variable (k : Vector Addr 16) (n : Fin 17)

@[simp] theorem State.setStack_v : (s.setStack k n).v = s.v := rfl
@[simp] theorem State.setStack_i : (s.setStack k n).i = s.i := rfl
@[simp] theorem State.setStack_pc : (s.setStack k n).pc = s.pc := rfl
@[simp] theorem State.setStack_stk : (s.setStack k n).stk = k := rfl
@[simp] theorem State.setStack_sp : (s.setStack k n).sp = n := rfl
@[simp] theorem State.setStack_dt : (s.setStack k n).dt = s.dt := rfl
@[simp] theorem State.setStack_st : (s.setStack k n).st = s.st := rfl
@[simp] theorem State.setStack_key : (s.setStack k n).key = s.key := rfl
@[simp] theorem State.setStack_kl : (s.setStack k n).kl = s.kl := rfl
@[simp] theorem State.setStack_fb : (s.setStack k n).fb = s.fb := rfl
@[simp] theorem State.setStack_mem : (s.setStack k n).mem = s.mem := rfl
@[simp] theorem State.setStack_fault : (s.setStack k n).fault = s.fault := rfl
@[simp] theorem State.setStack_sc : (s.setStack k n).sc = s.sc := rfl
@[simp] theorem State.setStack_ipt : (s.setStack k n).ipt = s.ipt := rfl
@[simp] theorem State.setStack_rndIn : (s.setStack k n).rndIn = s.rndIn := rfl
@[simp] theorem State.setStack_rndDraws : (s.setStack k n).rndDraws = s.rndDraws := rfl
@[simp] theorem State.setStack_keyIn : (s.setStack k n).keyIn = s.keyIn := rfl
@[simp] theorem State.setStack_keyDraws : (s.setStack k n).keyDraws = s.keyDraws := rfl

end setStackFields

section setDtFields

variable (b : Byte)

@[simp] theorem State.setDt_v : (s.setDt b).v = s.v := rfl
@[simp] theorem State.setDt_i : (s.setDt b).i = s.i := rfl
@[simp] theorem State.setDt_pc : (s.setDt b).pc = s.pc := rfl
@[simp] theorem State.setDt_stk : (s.setDt b).stk = s.stk := rfl
@[simp] theorem State.setDt_sp : (s.setDt b).sp = s.sp := rfl
@[simp] theorem State.setDt_dt : (s.setDt b).dt = b := rfl
@[simp] theorem State.setDt_st : (s.setDt b).st = s.st := rfl
@[simp] theorem State.setDt_key : (s.setDt b).key = s.key := rfl
@[simp] theorem State.setDt_kl : (s.setDt b).kl = s.kl := rfl
@[simp] theorem State.setDt_fb : (s.setDt b).fb = s.fb := rfl
@[simp] theorem State.setDt_mem : (s.setDt b).mem = s.mem := rfl
@[simp] theorem State.setDt_fault : (s.setDt b).fault = s.fault := rfl
@[simp] theorem State.setDt_sc : (s.setDt b).sc = s.sc := rfl
@[simp] theorem State.setDt_ipt : (s.setDt b).ipt = s.ipt := rfl
@[simp] theorem State.setDt_rndIn : (s.setDt b).rndIn = s.rndIn := rfl
@[simp] theorem State.setDt_rndDraws : (s.setDt b).rndDraws = s.rndDraws := rfl
@[simp] theorem State.setDt_keyIn : (s.setDt b).keyIn = s.keyIn := rfl
@[simp] theorem State.setDt_keyDraws : (s.setDt b).keyDraws = s.keyDraws := rfl

end setDtFields

section setStFields

variable (b : Byte)

@[simp] theorem State.setSt_v : (s.setSt b).v = s.v := rfl
@[simp] theorem State.setSt_i : (s.setSt b).i = s.i := rfl
@[simp] theorem State.setSt_pc : (s.setSt b).pc = s.pc := rfl
@[simp] theorem State.setSt_stk : (s.setSt b).stk = s.stk := rfl
@[simp] theorem State.setSt_sp : (s.setSt b).sp = s.sp := rfl
@[simp] theorem State.setSt_dt : (s.setSt b).dt = s.dt := rfl
@[simp] theorem State.setSt_st : (s.setSt b).st = b := rfl
@[simp] theorem State.setSt_key : (s.setSt b).key = s.key := rfl
@[simp] theorem State.setSt_kl : (s.setSt b).kl = s.kl := rfl
@[simp] theorem State.setSt_fb : (s.setSt b).fb = s.fb := rfl
@[simp] theorem State.setSt_mem : (s.setSt b).mem = s.mem := rfl
@[simp] theorem State.setSt_fault : (s.setSt b).fault = s.fault := rfl
@[simp] theorem State.setSt_sc : (s.setSt b).sc = s.sc := rfl
@[simp] theorem State.setSt_ipt : (s.setSt b).ipt = s.ipt := rfl
@[simp] theorem State.setSt_rndIn : (s.setSt b).rndIn = s.rndIn := rfl
@[simp] theorem State.setSt_rndDraws : (s.setSt b).rndDraws = s.rndDraws := rfl
@[simp] theorem State.setSt_keyIn : (s.setSt b).keyIn = s.keyIn := rfl
@[simp] theorem State.setSt_keyDraws : (s.setSt b).keyDraws = s.keyDraws := rfl

end setStFields

section setKlFields

variable (k : Option KeyIdx)

@[simp] theorem State.setKl_v : (s.setKl k).v = s.v := rfl
@[simp] theorem State.setKl_i : (s.setKl k).i = s.i := rfl
@[simp] theorem State.setKl_pc : (s.setKl k).pc = s.pc := rfl
@[simp] theorem State.setKl_stk : (s.setKl k).stk = s.stk := rfl
@[simp] theorem State.setKl_sp : (s.setKl k).sp = s.sp := rfl
@[simp] theorem State.setKl_dt : (s.setKl k).dt = s.dt := rfl
@[simp] theorem State.setKl_st : (s.setKl k).st = s.st := rfl
@[simp] theorem State.setKl_key : (s.setKl k).key = s.key := rfl
@[simp] theorem State.setKl_kl : (s.setKl k).kl = k := rfl
@[simp] theorem State.setKl_fb : (s.setKl k).fb = s.fb := rfl
@[simp] theorem State.setKl_mem : (s.setKl k).mem = s.mem := rfl
@[simp] theorem State.setKl_fault : (s.setKl k).fault = s.fault := rfl
@[simp] theorem State.setKl_sc : (s.setKl k).sc = s.sc := rfl
@[simp] theorem State.setKl_ipt : (s.setKl k).ipt = s.ipt := rfl
@[simp] theorem State.setKl_rndIn : (s.setKl k).rndIn = s.rndIn := rfl
@[simp] theorem State.setKl_rndDraws : (s.setKl k).rndDraws = s.rndDraws := rfl
@[simp] theorem State.setKl_keyIn : (s.setKl k).keyIn = s.keyIn := rfl
@[simp] theorem State.setKl_keyDraws : (s.setKl k).keyDraws = s.keyDraws := rfl

end setKlFields

section setFbFields

variable (g : FrameBuffer)

@[simp] theorem State.setFb_v : (s.setFb g).v = s.v := rfl
@[simp] theorem State.setFb_i : (s.setFb g).i = s.i := rfl
@[simp] theorem State.setFb_pc : (s.setFb g).pc = s.pc := rfl
@[simp] theorem State.setFb_stk : (s.setFb g).stk = s.stk := rfl
@[simp] theorem State.setFb_sp : (s.setFb g).sp = s.sp := rfl
@[simp] theorem State.setFb_dt : (s.setFb g).dt = s.dt := rfl
@[simp] theorem State.setFb_st : (s.setFb g).st = s.st := rfl
@[simp] theorem State.setFb_key : (s.setFb g).key = s.key := rfl
@[simp] theorem State.setFb_kl : (s.setFb g).kl = s.kl := rfl
@[simp] theorem State.setFb_fb : (s.setFb g).fb = g := rfl
@[simp] theorem State.setFb_mem : (s.setFb g).mem = s.mem := rfl
@[simp] theorem State.setFb_fault : (s.setFb g).fault = s.fault := rfl
@[simp] theorem State.setFb_sc : (s.setFb g).sc = s.sc := rfl
@[simp] theorem State.setFb_ipt : (s.setFb g).ipt = s.ipt := rfl
@[simp] theorem State.setFb_rndIn : (s.setFb g).rndIn = s.rndIn := rfl
@[simp] theorem State.setFb_rndDraws : (s.setFb g).rndDraws = s.rndDraws := rfl
@[simp] theorem State.setFb_keyIn : (s.setFb g).keyIn = s.keyIn := rfl
@[simp] theorem State.setFb_keyDraws : (s.setFb g).keyDraws = s.keyDraws := rfl

end setFbFields

section setMemFields

variable (m : Memory)

@[simp] theorem State.setMem_v : (s.setMem m).v = s.v := rfl
@[simp] theorem State.setMem_i : (s.setMem m).i = s.i := rfl
@[simp] theorem State.setMem_pc : (s.setMem m).pc = s.pc := rfl
@[simp] theorem State.setMem_stk : (s.setMem m).stk = s.stk := rfl
@[simp] theorem State.setMem_sp : (s.setMem m).sp = s.sp := rfl
@[simp] theorem State.setMem_dt : (s.setMem m).dt = s.dt := rfl
@[simp] theorem State.setMem_st : (s.setMem m).st = s.st := rfl
@[simp] theorem State.setMem_key : (s.setMem m).key = s.key := rfl
@[simp] theorem State.setMem_kl : (s.setMem m).kl = s.kl := rfl
@[simp] theorem State.setMem_fb : (s.setMem m).fb = s.fb := rfl
@[simp] theorem State.setMem_mem : (s.setMem m).mem = m := rfl
@[simp] theorem State.setMem_fault : (s.setMem m).fault = s.fault := rfl
@[simp] theorem State.setMem_sc : (s.setMem m).sc = s.sc := rfl
@[simp] theorem State.setMem_ipt : (s.setMem m).ipt = s.ipt := rfl
@[simp] theorem State.setMem_rndIn : (s.setMem m).rndIn = s.rndIn := rfl
@[simp] theorem State.setMem_rndDraws : (s.setMem m).rndDraws = s.rndDraws := rfl
@[simp] theorem State.setMem_keyIn : (s.setMem m).keyIn = s.keyIn := rfl
@[simp] theorem State.setMem_keyDraws : (s.setMem m).keyDraws = s.keyDraws := rfl

end setMemFields

section setFaultFields

variable (f : FaultCause)

@[simp] theorem State.setFault_v : (s.setFault f).v = s.v := rfl
@[simp] theorem State.setFault_i : (s.setFault f).i = s.i := rfl
@[simp] theorem State.setFault_pc : (s.setFault f).pc = s.pc := rfl
@[simp] theorem State.setFault_stk : (s.setFault f).stk = s.stk := rfl
@[simp] theorem State.setFault_sp : (s.setFault f).sp = s.sp := rfl
@[simp] theorem State.setFault_dt : (s.setFault f).dt = s.dt := rfl
@[simp] theorem State.setFault_st : (s.setFault f).st = s.st := rfl
@[simp] theorem State.setFault_key : (s.setFault f).key = s.key := rfl
@[simp] theorem State.setFault_kl : (s.setFault f).kl = s.kl := rfl
@[simp] theorem State.setFault_fb : (s.setFault f).fb = s.fb := rfl
@[simp] theorem State.setFault_mem : (s.setFault f).mem = s.mem := rfl
@[simp] theorem State.setFault_fault : (s.setFault f).fault = some f := rfl
@[simp] theorem State.setFault_sc : (s.setFault f).sc = s.sc := rfl
@[simp] theorem State.setFault_ipt : (s.setFault f).ipt = s.ipt := rfl
@[simp] theorem State.setFault_rndIn : (s.setFault f).rndIn = s.rndIn := rfl
@[simp] theorem State.setFault_rndDraws : (s.setFault f).rndDraws = s.rndDraws := rfl
@[simp] theorem State.setFault_keyIn : (s.setFault f).keyIn = s.keyIn := rfl
@[simp] theorem State.setFault_keyDraws : (s.setFault f).keyDraws = s.keyDraws := rfl

end setFaultFields

section bumpScFields

@[simp] theorem State.bumpSc_v : (s.bumpSc).v = s.v := rfl
@[simp] theorem State.bumpSc_i : (s.bumpSc).i = s.i := rfl
@[simp] theorem State.bumpSc_pc : (s.bumpSc).pc = s.pc := rfl
@[simp] theorem State.bumpSc_stk : (s.bumpSc).stk = s.stk := rfl
@[simp] theorem State.bumpSc_sp : (s.bumpSc).sp = s.sp := rfl
@[simp] theorem State.bumpSc_dt : (s.bumpSc).dt = s.dt := rfl
@[simp] theorem State.bumpSc_st : (s.bumpSc).st = s.st := rfl
@[simp] theorem State.bumpSc_key : (s.bumpSc).key = s.key := rfl
@[simp] theorem State.bumpSc_kl : (s.bumpSc).kl = s.kl := rfl
@[simp] theorem State.bumpSc_fb : (s.bumpSc).fb = s.fb := rfl
@[simp] theorem State.bumpSc_mem : (s.bumpSc).mem = s.mem := rfl
@[simp] theorem State.bumpSc_fault : (s.bumpSc).fault = s.fault := rfl
@[simp] theorem State.bumpSc_sc : (s.bumpSc).sc = s.sc + 1 := rfl
@[simp] theorem State.bumpSc_ipt : (s.bumpSc).ipt = s.ipt := rfl
@[simp] theorem State.bumpSc_rndIn : (s.bumpSc).rndIn = s.rndIn := rfl
@[simp] theorem State.bumpSc_rndDraws : (s.bumpSc).rndDraws = s.rndDraws := rfl
@[simp] theorem State.bumpSc_keyIn : (s.bumpSc).keyIn = s.keyIn := rfl
@[simp] theorem State.bumpSc_keyDraws : (s.bumpSc).keyDraws = s.keyDraws := rfl

end bumpScFields

section rndTakenFields

@[simp] theorem State.rndTaken_v : (s.rndTaken).v = s.v := rfl
@[simp] theorem State.rndTaken_i : (s.rndTaken).i = s.i := rfl
@[simp] theorem State.rndTaken_pc : (s.rndTaken).pc = s.pc := rfl
@[simp] theorem State.rndTaken_stk : (s.rndTaken).stk = s.stk := rfl
@[simp] theorem State.rndTaken_sp : (s.rndTaken).sp = s.sp := rfl
@[simp] theorem State.rndTaken_dt : (s.rndTaken).dt = s.dt := rfl
@[simp] theorem State.rndTaken_st : (s.rndTaken).st = s.st := rfl
@[simp] theorem State.rndTaken_key : (s.rndTaken).key = s.key := rfl
@[simp] theorem State.rndTaken_kl : (s.rndTaken).kl = s.kl := rfl
@[simp] theorem State.rndTaken_fb : (s.rndTaken).fb = s.fb := rfl
@[simp] theorem State.rndTaken_mem : (s.rndTaken).mem = s.mem := rfl
@[simp] theorem State.rndTaken_fault : (s.rndTaken).fault = s.fault := rfl
@[simp] theorem State.rndTaken_sc : (s.rndTaken).sc = s.sc := rfl
@[simp] theorem State.rndTaken_ipt : (s.rndTaken).ipt = s.ipt := rfl
@[simp] theorem State.rndTaken_rndIn : (s.rndTaken).rndIn = s.rndIn.tail := rfl
@[simp] theorem State.rndTaken_rndDraws : (s.rndTaken).rndDraws = s.rndDraws + 1 := rfl
@[simp] theorem State.rndTaken_keyIn : (s.rndTaken).keyIn = s.keyIn := rfl
@[simp] theorem State.rndTaken_keyDraws : (s.rndTaken).keyDraws = s.keyDraws := rfl

end rndTakenFields

section tickFields

@[simp] theorem tick_v : (tick s).v = s.v := rfl
@[simp] theorem tick_i : (tick s).i = s.i := rfl
@[simp] theorem tick_pc : (tick s).pc = s.pc := rfl
@[simp] theorem tick_stk : (tick s).stk = s.stk := rfl
@[simp] theorem tick_sp : (tick s).sp = s.sp := rfl
@[simp] theorem tick_dt : (tick s).dt = timerTick s.dt := rfl
@[simp] theorem tick_st : (tick s).st = timerTick s.st := rfl
@[simp] theorem tick_key : (tick s).key = s.keyInNow := rfl
@[simp] theorem tick_kl : (tick s).kl = s.kl := rfl
@[simp] theorem tick_fb : (tick s).fb = s.fb := rfl
@[simp] theorem tick_mem : (tick s).mem = s.mem := rfl
@[simp] theorem tick_fault : (tick s).fault = s.fault := rfl
@[simp] theorem tick_sc : (tick s).sc = 0 := rfl
@[simp] theorem tick_ipt : (tick s).ipt = s.ipt := rfl
@[simp] theorem tick_rndIn : (tick s).rndIn = s.rndIn := rfl
@[simp] theorem tick_rndDraws : (tick s).rndDraws = s.rndDraws := rfl
@[simp] theorem tick_keyIn : (tick s).keyIn = s.keyIn.tail := rfl
@[simp] theorem tick_keyDraws : (tick s).keyDraws = s.keyDraws + 1 := rfl

end tickFields

end Sys2Proof.Machine
end

