-- ==== Sys2Proof/Laws/Ops.lean ====
section
/-! SUPPORT. One lemma for each shared operation, saying once everything it can do. -/

namespace Sys2Proof.Machine

@[simp] theorem State.reg_setReg (s : State) (x y : RegIdx) (b : Byte) :
    (s.setReg x b).reg y = if y = x then b else s.reg y := by
  simp only [State.reg, State.setReg_v, Vector.getElem_set, Fin.ext_iff, eq_comm]

/-- V[x] holds the result unless x = 0xF; VF holds the flag whatever x is (R173). -/
theorem reg_writeResultFlag (x y : RegIdx) (result flag : Byte) (s : State) :
    (writeResultFlag x result flag s).reg y = if y = vf then flag else if y = x then result else s.reg y := by
  simp only [writeResultFlag, State.reg_setReg]

theorem writeResultFlag_frame (x : RegIdx) (result flag : Byte) (s : State) :
    writeResultFlag x result flag s = { s with v := (writeResultFlag x result flag s).v } := rfl

theorem skipIf_eq (c : Bool) (s : State) : skipIf c s = { s with pc := if c then s.pc + 2 else s.pc } := by
  cases c <;> rfl

@[simp] theorem advancePc_eq (s : State) : advancePc s = s.setPc (s.pc + 2) := rfl

theorem push_space {value : Addr} {s : State} {k : State → Result} (h : s.sp.val < 16) :
    push value s k = k (s.setStack (s.stk.set s.sp.val value h) ⟨s.sp.val + 1, Nat.succ_lt_succ h⟩) := by
  rw [push, dif_pos h]

theorem push_full {value : Addr} {s : State} {k : State → Result} (h : s.sp.val = 16) :
    push value s k = .next (s.setFault .stackOverflow) := by
  rw [push, dif_neg (by omega)]; rfl

theorem pop_top {s : State} {k : Addr → State → Result} (h : 0 < s.sp.val) :
    pop s k = k (s.stk[s.sp.val - 1]'(by omega)) (s.setStack s.stk ⟨s.sp.val - 1, by omega⟩) := by
  rw [pop, dif_pos h]

theorem pop_empty {s : State} {k : Addr → State → Result} (h : s.sp.val = 0) :
    pop s k = .next (s.setFault .stackUnderflow) := by
  rw [pop, dif_neg (by omega)]; rfl

theorem spanOutOfRange_iff (base len : Nat) : spanOutOfRange base len = true ↔ 1 ≤ len ∧ base + len > 0x1000 := by
  simp only [spanOutOfRange, Config.memTop, decide_eq_true_eq]; omega

theorem withSpan_in {len : Nat} {s : State} {k : Result} (h : spanOutOfRange s.i.toNat len = false) :
    withSpan len s k = k := by
  rw [withSpan, h]; rfl

theorem withSpan_out {len : Nat} {s : State} {k : Result} (h : spanOutOfRange s.i.toNat len = true) :
    withSpan len s k = .next (s.setFault .memRangeData) := by
  rw [withSpan, h]; rfl

theorem State.regsUpTo_length (s : State) (x : RegIdx) : (s.regsUpTo x).length = x.val + 1 := by
  have := x.isLt
  simp only [State.regsUpTo, List.length_take, Vector.length_toList]; omega

theorem State.regsUpTo_getD (s : State) (x : RegIdx) {k : Nat} (hk : k ≤ x.val) :
    (s.regsUpTo x).getD k 0 = s.reg ⟨k, by omega⟩ := by
  have hx := x.isLt
  have hl : k < s.v.toList.length := by rw [Vector.length_toList]; omega
  rw [List.getD_eq_getElem?_getD, State.regsUpTo, List.getElem?_take_of_lt (by omega), List.getElem?_eq_getElem hl]
  rfl

theorem bcdDigits_length (b : Byte) : (bcdDigits b).length = 3 := rfl

/-- Registers below the count are loaded, the others kept (R195). -/
theorem getElem_loadRegs (m : Memory) (base : Nat) (regs : RegFile) (n : Nat) (k : Nat) (hk : k < 16) :
    (loadRegs m base regs n)[k] = if k < n then m.read (base + k) else regs[k] := by
  induction n with
  | zero => rfl
  | succ n ih =>
    rw [loadRegs, Vector.getElem_setIfInBounds, ih]
    by_cases h : n = k
    · subst h; rw [if_pos rfl, if_pos (by omega)]
    · rw [if_neg h]
      by_cases h' : k < n
      · rw [if_pos h', if_pos (by omega)]
      · rw [if_neg h', if_neg (by omega)]

theorem FrameBuffer.pixel_of_lt (fb : FrameBuffer) {r c : Nat} (hr : r < 32) (hc : c < 64) :
    fb.pixel r c = fb[r][c] := by
  rw [FrameBuffer.pixel, dif_pos ⟨hr, hc⟩]

/-- A toggle turns over its own pixel and no other. -/
theorem FrameBuffer.pixel_toggle (fb : FrameBuffer) (r c r' c' : Nat) :
    (fb.toggle r c).pixel r' c' =
      if r' = r ∧ c' = c ∧ r < 32 ∧ c < 64 then !fb.pixel r' c' else fb.pixel r' c' := by
  by_cases h : r < 32 ∧ c < 64
  · by_cases h' : r' < 32 ∧ c' < 64
    · rw [FrameBuffer.toggle, dif_pos h, FrameBuffer.pixel_of_lt _ h'.1 h'.2, FrameBuffer.pixel_of_lt _ h'.1 h'.2]
      by_cases hr : r = r'
      · subst hr
        by_cases hc : c = c'
        · subst hc; simp [h.1, h.2]
        · simp [hc, Ne.symm hc]
      · simp [hr, Ne.symm hr]
    · rw [FrameBuffer.pixel, dif_neg h', FrameBuffer.pixel, dif_neg h', if_neg (by omega)]
  · rw [FrameBuffer.toggle, dif_neg h, if_neg (by tauto)]

@[simp] theorem FrameBuffer.pixel_blank (r c : Nat) : FrameBuffer.blank.pixel r c = false := by
  rw [FrameBuffer.pixel]; split
  · simp [FrameBuffer.blank]
  · rfl

theorem timerTick_toNat (t : Byte) : (timerTick t).toNat = t.toNat - 1 := by
  rw [timerTick]
  split
  · simp_all
  · next h =>
    have : t.toNat ≠ 0 := fun h0 => h (BitVec.eq_of_toNat_eq (by simpa using h0))
    simp [BitVec.toNat_sub]; omega

end Sys2Proof.Machine
end

