-- ==== Sys2Proof/Laws/Blitter.lean ====
section
/-! SUPPORT. What the sprite blitter does, in terms of the one sprite bit that lands on each pixel (44_display.md R211 to
R214). -/

namespace Sys2Proof.Machine

/-- The first k bits of one sprite row, which lies inside the grid: what each pixel becomes and when a collision is
recorded. -/
theorem drawBits_spec (byte : Byte) (x0 cy : Nat) (hcy : cy < 32) (b : Blit) (k : Nat) (hk : k ≤ 8) :
   let b' := (List.range k).foldl (drawBit byte x0 cy) b
   (∀ r c, r < 32 → c < 64 → b'.fb.pixel r c = xor (b.fb.pixel r c) (decide (r = cy ∧ x0 ≤ c ∧ c < x0 + k) && byte.getLsbD (7 - (c - x0)))) ∧
   (b'.collided = true ↔ b.collided = true ∨ ∃ c, c < 64 ∧ x0 ≤ c ∧ c < x0 + k ∧ byte.getLsbD (7 - (c - x0)) = true ∧ b.fb.pixel cy c = true) := by
  induction k with
  | zero => 
    refine ⟨fun r c hr hc => ?_, ?_⟩
    · have : ¬ (r = cy ∧ x0 ≤ c ∧ c < x0 + 0) := by omega
      simp only [List.range_zero, List.foldl_nil, this, decide_false, Bool.false_and, Bool.xor_false]
    · constructor
      · exact .inl
      · rintro (h | ⟨c, -, h1, h2, -⟩)
        · exact h
        · omega
  | succ k ih =>
    obtain ⟨i1, i2⟩ := ih (by omega)
    dsimp only at *
    rw [List.range_succ, List.foldl_append]
    simp only [List.foldl_cons, List.foldl_nil]
    generalize (List.range k).foldl (drawBit byte x0 cy) b = g at *
    rw [drawBit]
    by_cases h1 : x0 + k ≥ 64
    · rw [if_pos h1]
      refine ⟨fun r c hr hc => ?_, ?_⟩
      · rw [i1 r c hr hc]
        have : (r = cy ∧ x0 ≤ c ∧ c < x0 + k) ↔ (r = cy ∧ x0 ≤ c ∧ c < x0 + (k+1)) := by omega
        rw [decide_eq_decide.mpr this]
      · rw [i2]
        refine or_congr Iff.rfl (exists_congr fun c => ?_)
        constructor
        · rintro ⟨a, b, c, d⟩; exact ⟨a, b, by omega, d⟩
        · rintro ⟨a, b, c, d⟩; exact ⟨a, b, by omega, d⟩
    · rw [if_neg h1]
      by_cases h2 : byte.getLsbD (7 - k) = true
      · rw [if_pos h2]
        refine ⟨fun r c hr hc => ?_, ?_⟩
        · show (g.fb.toggle cy (x0 + k)).pixel r c = _
          rw [FrameBuffer.pixel_toggle]
          by_cases h3 : r = cy ∧ c = x0 + k
          · obtain ⟨rfl, rfl⟩ := h3
            rw [if_pos ⟨rfl, rfl, by omega, by omega⟩, i1 _ _ hr hc]
            simp [h2]
          · rw [if_neg (by tauto), i1 r c hr hc]
            have : (r = cy ∧ x0 ≤ c ∧ c < x0 + k) ↔ (r = cy ∧ x0 ≤ c ∧ c < x0 + (k+1)) := by omega
            rw [decide_eq_decide.mpr this]
        · show (g.collided || g.fb.pixel cy (x0 + k)) = true ↔ _
          rw [Bool.or_eq_true, i2, i1 cy (x0+k) hcy (by omega)]
          have : ¬ (cy = cy ∧ x0 ≤ x0 + k ∧ x0 + k < x0 + k) := by omega
          rw [decide_eq_false this, Bool.false_and, Bool.xor_false]
          constructor
          · rintro ((h | ⟨c, a, b, d, e⟩) | h)
            · exact .inl h
            · exact .inr ⟨c, a, b, by omega, e⟩
            · exact .inr ⟨x0 + k, by omega, by omega, by omega, by rw [Nat.add_sub_cancel_left]; exact h2, h⟩
          · rintro (h | ⟨c, a, b, d, e⟩)
            · exact .inl (.inl h)
            · by_cases hc : c = x0 + k
              · subst hc; exact .inr e.2
              · exact .inl (.inr ⟨c, a, b, by omega, e⟩)
      · rw [if_neg h2]
        refine ⟨fun r c hr hc => ?_, ?_⟩
        · rw [i1 r c hr hc]
          by_cases h3 : r = cy ∧ c = x0 + k
          · obtain ⟨rfl, rfl⟩ := h3; simp at h2; simp [h2]
          · have : (r = cy ∧ x0 ≤ c ∧ c < x0 + k) ↔ (r = cy ∧ x0 ≤ c ∧ c < x0 + (k+1)) := by omega
            rw [decide_eq_decide.mpr this]
        · rw [i2]
          refine or_congr Iff.rfl (exists_congr fun c => ?_)
          constructor
          · rintro ⟨a, b, c, d⟩; exact ⟨a, b, by omega, d⟩
          · rintro ⟨a, b, d, e⟩
            refine ⟨a, b, ?_, e⟩
            by_contra hh
            have : c - x0 = k := by omega
            rw [this] at e; exact h2 e.1

/-- The sprite rows lo .. lo + n - 1. -/
theorem drawRows_spec (m : Memory) (base x0 y0 : Nat) : ∀ (n lo : Nat) (b : Blit),
   let b' := drawRows m base x0 y0 (List.range' lo n) b
   (∀ r c, r < 32 → c < 64 → b'.fb.pixel r c = xor (b.fb.pixel r c) (decide (y0 + lo ≤ r ∧ r < y0 + lo + n ∧ x0 ≤ c ∧ c < x0 + 8) && (m.read (base + (r - y0))).getLsbD (7 - (c - x0)))) ∧
   (b'.collided = true ↔ b.collided = true ∨ ∃ r c, r < 32 ∧ c < 64 ∧ y0 + lo ≤ r ∧ r < y0 + lo + n ∧ x0 ≤ c ∧ c < x0 + 8 ∧ (m.read (base + (r - y0))).getLsbD (7 - (c - x0)) = true ∧ b.fb.pixel r c = true) := by
  intro n
  induction n with
  | zero =>
    intro lo b
    refine ⟨fun r c hr hc => ?_, ?_⟩
    · have : ¬ (y0 + lo ≤ r ∧ r < y0 + lo + 0 ∧ x0 ≤ c ∧ c < x0 + 8) := by omega
      simp only [this, decide_false, Bool.false_and, Bool.xor_false]; rfl
    · constructor
      · exact .inl
      · rintro (h | ⟨r, c, _, _, h1, h2, _⟩)
        · exact h
        · omega
  | succ n ih =>
    intro lo b
    rw [List.range'_succ, drawRows]
    dsimp only
    by_cases h1 : y0 + lo ≥ 32
    · rw [if_pos h1]
      refine ⟨fun r c hr hc => ?_, ?_⟩
      · have : ¬ (y0 + lo ≤ r ∧ r < y0 + lo + (n+1) ∧ x0 ≤ c ∧ c < x0 + 8) := by omega
        simp only [this, decide_false, Bool.false_and, Bool.xor_false]
      · constructor
        · exact .inl
        · rintro (h | ⟨r, c, _, _, h1, h2, _⟩)
          · exact h
          · omega
    · rw [if_neg h1]
      obtain ⟨i1, i2⟩ := ih (lo + 1) (drawRow (m.read (base + lo)) x0 (y0 + lo) b)
      obtain ⟨j1, j2⟩ := drawBits_spec (m.read (base + lo)) x0 (y0 + lo) (by omega) b 8 (le_refl _)
      change (∀ r c, r < 32 → c < 64 → (drawRow (m.read (base + lo)) x0 (y0 + lo) b).fb.pixel r c = _) at j1
      change (drawRow (m.read (base + lo)) x0 (y0 + lo) b).collided = true ↔ _ at j2
      refine ⟨fun r c hr hc => ?_, ?_⟩
      · rw [i1 r c hr hc, j1 r c hr hc]
        by_cases h3 : r = y0 + lo
        · subst h3
          have e1 : ¬ (y0 + (lo + 1) ≤ y0 + lo ∧ y0 + lo < y0 + (lo + 1) + n ∧ x0 ≤ c ∧ c < x0 + 8) := by omega
          have e2 : (y0 + lo = y0 + lo ∧ x0 ≤ c ∧ c < x0 + 8) ↔ (y0 + lo ≤ y0 + lo ∧ y0 + lo < y0 + lo + (n + 1) ∧ x0 ≤ c ∧ c < x0 + 8) := by omega
          rw [decide_eq_decide.mpr e2]
          rw [decide_eq_false e1, Bool.false_and, Bool.xor_false, Nat.add_sub_cancel_left]
        · have e1 : ¬ (r = y0 + lo ∧ x0 ≤ c ∧ c < x0 + 8) := by omega
          have e2 : (y0 + (lo + 1) ≤ r ∧ r < y0 + (lo + 1) + n ∧ x0 ≤ c ∧ c < x0 + 8) ↔ (y0 + lo ≤ r ∧ r < y0 + lo + (n + 1) ∧ x0 ≤ c ∧ c < x0 + 8) := by omega
          rw [decide_eq_decide.mpr e2]
          rw [decide_eq_false e1, Bool.false_and, Bool.xor_false]
      · rw [i2, j2]
        constructor
        · rintro ((h | ⟨c, a1, a2, a3, a4, a5⟩) | ⟨r, c, a1, a2, a3, a4, a5, a6, a7, a8⟩)
          · exact .inl h
          · exact .inr ⟨y0 + lo, c, by omega, a1, by omega, by omega, a2, a3, by rw [Nat.add_sub_cancel_left]; exact a4, a5⟩
          · rw [j1 r c a1 a2] at a8
            have e1 : ¬ (r = y0 + lo ∧ x0 ≤ c ∧ c < x0 + 8) := by omega
            simp only [e1, decide_false, Bool.false_and, Bool.xor_false] at a8
            exact .inr ⟨r, c, a1, a2, by omega, by omega, a5, a6, a7, a8⟩
        · rintro (h | ⟨r, c, a1, a2, a3, a4, a5, a6, a7, a8⟩)
          · exact .inl (.inl h)
          · by_cases h3 : r = y0 + lo
            · subst h3; rw [Nat.add_sub_cancel_left] at a7; exact .inl (.inr ⟨c, a2, a5, a6, a7, a8⟩)
            · refine .inr ⟨r, c, a1, a2, by omega, by omega, a5, a6, a7, ?_⟩
              rw [j1 r c a1 a2]
              have e1 : ¬ (r = y0 + lo ∧ x0 ≤ c ∧ c < x0 + 8) := by omega
              simp only [e1, decide_false, Bool.false_and, Bool.xor_false]; exact a8

/-- Everything a draw does: each pixel is XORed with the sprite bit that lands on it, and a collision is recorded exactly
when some lit pixel met a 1 bit (R211 to R214). -/
theorem blit_spec (m : Memory) (base x0 y0 n : Nat) (fb : FrameBuffer) :
   (∀ (r : Fin 32) (c : Fin 64), (blit m base x0 y0 n fb).fb[r.val][c.val] = xor fb[r.val][c.val] (spriteBit m base x0 y0 n r.val c.val)) ∧
   ((blit m base x0 y0 n fb).collided = true ↔ ∃ (r : Fin 32) (c : Fin 64), fb[r.val][c.val] = true ∧ spriteBit m base x0 y0 n r.val c.val = true) := by
  obtain ⟨h1, h2⟩ := drawRows_spec m base x0 y0 n 0 ⟨fb, false⟩
  rw [← List.range_eq_range'] at h1 h2
  change ∀ r c, r < 32 → c < 64 → (blit m base x0 y0 n fb).fb.pixel r c = _ at h1
  change (blit m base x0 y0 n fb).collided = true ↔ _ at h2
  refine ⟨fun r c => ?_, ?_⟩
  · have := h1 r.val c.val r.isLt c.isLt
    rw [FrameBuffer.pixel_of_lt _ r.isLt c.isLt, FrameBuffer.pixel_of_lt _ r.isLt c.isLt] at this
    rw [this]; rfl
  · rw [h2]
    constructor
    · rintro (h | ⟨r, c, a1, a2, a3, a4, a5, a6, a7, a8⟩)
      · cases h
      · rw [FrameBuffer.pixel_of_lt _ a1 a2] at a8
        refine ⟨⟨r, a1⟩, ⟨c, a2⟩, a8, ?_⟩
        rw [spriteBit, a7, Bool.and_true, decide_eq_true_eq]; exact ⟨a3, a4, a5, a6⟩
    · rintro ⟨r, c, a, b⟩
      rw [spriteBit, Bool.and_eq_true, decide_eq_true_eq] at b
      refine .inr ⟨r.val, c.val, r.isLt, c.isLt, b.1.1, b.1.2.1, b.1.2.2.1, b.1.2.2.2, b.2, ?_⟩
      rw [FrameBuffer.pixel_of_lt _ r.isLt c.isLt]; exact a

end Sys2Proof.Machine
end

