-- ==== Sys2Proof/Laws/Encoding.lean ====
section
/-! SUPPORT. The fields and masks of a word as arithmetic on the word's value, for proofs about decoding
(30_encoding.md R91, R94). -/

namespace Sys2Proof

theorem opField_toNat (w : Word) : (opField w).toNat = w.toNat / 4096 := by
  have := w.isLt
  simp [opField, Nat.shiftRight_eq_div_pow]; omega

theorem xField_val (w : Word) : (xField w).val = w.toNat / 256 % 16 := by
  simp [xField, Nat.shiftRight_eq_div_pow]

theorem yField_val (w : Word) : (yField w).val = w.toNat / 16 % 16 := by
  simp [yField, Nat.shiftRight_eq_div_pow]

theorem nField_val (w : Word) : (nField w).val = w.toNat % 16 := by
  simp [nField]

theorem nnField_toNat (w : Word) : (nnField w).toNat = w.toNat % 256 := by
  simp [nnField]

theorem nnnField_toNat (w : Word) : (nnnField w).toNat = w.toNat % 4096 := by
  simp [nnnField]

theorem packXYN_toNat {op : Nat} (h : op < 16) (x y n : Fin 16) :
    (packXYN op x y n).toNat = op * 4096 + x.val * 256 + y.val * 16 + n.val := by
  simp [packXYN]; omega

theorem packXNN_toNat {op : Nat} (h : op < 16) (x : Fin 16) (nn : Byte) :
    (packXNN op x nn).toNat = op * 4096 + x.val * 256 + nn.toNat := by
  have := nn.isLt
  simp [packXNN]; omega

theorem packNNN_toNat {op : Nat} (h : op < 16) (nnn : BitVec 12) :
    (packNNN op nnn).toNat = op * 4096 + nnn.toNat := by
  have := nnn.isLt
  simp [packNNN]; omega

theorem wordOfBytes_toNat (b0 b1 : Byte) : (wordOfBytes b0 b1).toNat = b0.toNat * 256 + b1.toNat := by
  have := b1.isLt
  simp only [wordOfBytes, BitVec.toNat_append]
  rw [← Nat.shiftLeft_add_eq_or_of_lt (by omega), Nat.shiftLeft_eq]

/-- A mask of 16 bits, bit by bit. -/
theorem and_of_bits {n m k : Nat} (hn : n < 65536) (hk : k < 65536)
    (h : ∀ i < 16, (n / 2 ^ i % 2 = 1 ∧ m / 2 ^ i % 2 = 1) ↔ k / 2 ^ i % 2 = 1) : n &&& m = k := by
  apply Nat.eq_of_testBit_eq
  intro i
  rw [Nat.testBit_and]
  by_cases hi : i < 16
  · simp only [Nat.testBit_eq_decide_div_mod_eq]
    rw [← Bool.decide_and]
    exact decide_eq_decide.mpr (h i hi)
  · have h2 : 65536 ≤ 2 ^ i := by
      simpa using Nat.pow_le_pow_right (n := 2) (by omega) (by omega : 16 ≤ i)
    rw [Nat.testBit_lt_two_pow (i := i) (x := n) (by omega), Nat.testBit_lt_two_pow (i := i) (x := k) (by omega),
      Bool.false_and]

/-- Mask 0xF000: op alone. -/
theorem and_maskOp_toNat (w : Word) : (w &&& 0xF000#16).toNat = w.toNat / 4096 * 4096 := by
  have := w.isLt
  rw [BitVec.toNat_and]
  refine and_of_bits this (by omega) fun i hi => ?_
  interval_cases i <;> norm_num <;> omega

/-- Mask 0xF0FF: op and NN. -/
theorem and_maskOpNN_toNat (w : Word) : (w &&& 0xF0FF#16).toNat = w.toNat / 4096 * 4096 + w.toNat % 256 := by
  have := w.isLt
  rw [BitVec.toNat_and]
  refine and_of_bits this (by omega) fun i hi => ?_
  interval_cases i <;> norm_num <;> omega

/-- Mask 0xF00F: op and n. -/
theorem and_maskOpN_toNat (w : Word) : (w &&& 0xF00F#16).toNat = w.toNat / 4096 * 4096 + w.toNat % 16 := by
  have := w.isLt
  rw [BitVec.toNat_and]
  refine and_of_bits this (by omega) fun i hi => ?_
  interval_cases i <;> norm_num <;> omega

end Sys2Proof
end

