-- ==== Sys2Proof/Laws/Exec.lean ====
section
/-! SUPPORT. What `exec` of the instructions with more than one outcome can be: the inversion lemmas of the stack, span and
key-wait instructions. Every other meaning is one `.next` by definition, so `cases` on its equation gives the state. -/

namespace Sys2Proof.Machine

theorem exec_call (nnn : BitVec 12) (s : State) :
    exec (.call nnn) s = push s.pc s (fun t => .next (t.setPc (zextNNN nnn))) := rfl

theorem exec_ret (s : State) : exec .ret s = pop s (fun value t => .next (t.setPc value)) := rfl

theorem exec_ldVxK (x : RegIdx) (s : State) : exec (.ldVxK x) s =
    match s.kl with
    | none => .next (stay (s.setKl s.leastPressed))
    | some k => if s.pressed k then .next (stay s) else .next ((s.setReg x (BitVec.ofNat 8 k.val)).setKl none) := rfl

theorem exec_ldBVx (x : RegIdx) (s : State) :
    exec (.ldBVx x) s = withSpan 3 s (.next (storeAtI (bcdDigits (s.reg x)) s)) := rfl

theorem exec_ldMemVx (x : RegIdx) (s : State) : exec (.ldMemVx x) s =
    withSpan (x.val + 1) s (.next (advanceI (BitVec.ofNat 16 (x.val + 1)) (storeAtI (s.regsUpTo x) s))) := rfl

theorem exec_ldVxMem (x : RegIdx) (s : State) : exec (.ldVxMem x) s =
    withSpan (x.val + 1) s
      (.next (advanceI (BitVec.ofNat 16 (x.val + 1)) (s.setRegs (loadRegs s.mem s.i.toNat s.v (x.val + 1))))) := rfl

theorem exec_drw (x y : RegIdx) (n : Fin 16) (s : State) : exec (.drw x y n) s =
    let drawn := blit s.mem s.i.toNat (startCol (s.reg x)) (startRow (s.reg y)) n.val s.fb
    withSpan n.val s (.next ((s.setFb drawn.fb).setReg vf (flagByte drawn.collided))) := rfl

/-- An instruction with a span either faults with nothing else changed or does its own effect. -/
theorem exec_span_cases {n : Nat} {s k t : State} {i : Instr} (h : exec i s = withSpan n s (.next k))
    (ht : exec i s = .next t) :
    (spanOutOfRange s.i.toNat n = true ∧ t = s.setFault .memRangeData) ∨
      (spanOutOfRange s.i.toNat n = false ∧ t = k) := by
  cases hs : spanOutOfRange s.i.toNat n with
  | true => rw [withSpan_out hs, ht] at h; cases h; exact .inl ⟨rfl, rfl⟩
  | false => rw [withSpan_in hs, ht] at h; cases h; exact .inr ⟨rfl, rfl⟩

theorem exec_call_cases {nnn : BitVec 12} {s t : State} (ht : exec (.call nnn) s = .next t) :
    (s.sp.val = 16 ∧ t = s.setFault .stackOverflow) ∨
      ∃ h : s.sp.val < 16,
        t = (s.setStack (s.stk.set s.sp.val s.pc h) ⟨s.sp.val + 1, Nat.succ_lt_succ h⟩).setPc (zextNNN nnn) := by
  by_cases h : s.sp.val < 16
  · rw [(exec_call nnn s).trans (push_space h)] at ht; cases ht; exact .inr ⟨h, rfl⟩
  · have h : s.sp.val = 16 := by omega
    rw [(exec_call nnn s).trans (push_full h)] at ht; cases ht; exact .inl ⟨h, rfl⟩

theorem exec_ret_cases {s t : State} (ht : exec .ret s = .next t) :
    (s.sp.val = 0 ∧ t = s.setFault .stackUnderflow) ∨
      ∃ h : 0 < s.sp.val,
        t = (s.setStack s.stk ⟨s.sp.val - 1, by omega⟩).setPc (s.stk[s.sp.val - 1]'(by omega)) := by
  by_cases h : 0 < s.sp.val
  · rw [(exec_ret s).trans (pop_top h)] at ht; cases ht; exact .inr ⟨h, rfl⟩
  · have h : s.sp.val = 0 := by omega
    rw [(exec_ret s).trans (pop_empty h)] at ht; cases ht; exact .inl ⟨h, rfl⟩

theorem exec_ldVxK_cases {x : RegIdx} {s t : State} (ht : exec (.ldVxK x) s = .next t) :
    (s.kl = none ∧ t = stay (s.setKl s.leastPressed)) ∨
      (∃ k, s.kl = some k ∧ s.pressed k = true ∧ t = stay s) ∨
      (∃ k, s.kl = some k ∧ s.pressed k = false ∧ t = (s.setReg x (BitVec.ofNat 8 k.val)).setKl none) := by
  rw [exec_ldVxK] at ht
  cases h : s.kl with
  | none => rw [h] at ht; cases ht; exact .inl ⟨rfl, rfl⟩
  | some k =>
    rw [h] at ht
    cases hp : s.pressed k <;> simp only [hp, if_true, Bool.false_eq_true, if_false] at ht <;> cases ht
    · exact .inr (.inr ⟨k, rfl, hp, rfl⟩)
    · exact .inr (.inl ⟨k, rfl, hp, rfl⟩)

end Sys2Proof.Machine
end

