-- ==== Sys2Proof/Laws/PerInstr.lean ====
section
/-! SUPPORT. Per-instruction families (LAWS.json): a statement about an instruction as syntax, one lemma for each
constructor. -/

namespace Sys2Proof.Laws.EncodesItsRow

/-- The encoder's word matches the instruction's own row of R94 and no other; an unknown opcode's word matches none. -/
def Statement (i : Instr) : Prop :=
  i.wellFormed = true → ∀ row ∈ opcodeMap, (encode i &&& row.2.1 = row.1 ↔ row.2.2 = mnemonic i)

/-- What matching a row is, as arithmetic on the word's value. -/
abbrev natMatch (v : Nat) (row : Word × Word × String) : Prop :=
  (if row.2.1 = 0xF000#16 then v / 4096 * 4096
   else if row.2.1 = 0xF0FF#16 then v / 4096 * 4096 + v % 256
   else v / 4096 * 4096 + v % 16) = row.1.toNat

theorem match_iff (w : Word) (row : Word × Word × String) (h : row ∈ opcodeMap) :
    (w &&& row.2.1 = row.1) ↔ natMatch w.toNat row := by
  have hm : row.2.1 = 0xF000#16 ∨ row.2.1 = 0xF0FF#16 ∨ row.2.1 = 0xF00F#16 := by revert row; decide
  rw [natMatch, ← BitVec.toNat_inj]
  rcases hm with hm | hm | hm <;> rw [hm]
  · rw [and_maskOp_toNat]; rfl
  · rw [and_maskOpNN_toNat]; rfl
  · rw [and_maskOpN_toNat]; rfl

/-- The mask of a group whose rows test op and the word modulo k. -/
abbrev maskOf (k : Nat) : Word := if k = 1 then 0xF000#16 else if k = 256 then 0xF0FF#16 else 0xF00F#16

/-- An instruction whose word has the given op, and the given selector modulo k, encodes its row, if the table has exactly
one row there and the rows of that op all have the mask of k. -/
theorem of_row {i : Instr} (op k sel : Nat) (m : String) (hk : k = 1 ∨ k = 16 ∨ k = 256) (hm : mnemonic i = m)
    (ho : (encode i).toNat / 4096 = op) (hs : (encode i).toNat % k = sel)
    (ht : ∀ row ∈ opcodeMap, (row.1.toNat / 4096 = op → row.2.1 = maskOf k) ∧
      (row.1.toNat / 4096 = op ∧ row.1.toNat % 4096 = sel ↔ row.2.2 = m)) : Statement i := by
  intro _ row hr
  obtain ⟨h1, h2⟩ := ht row hr
  rw [match_iff _ row hr, hm, ← h2, natMatch, ho]
  by_cases hrow : row.1.toNat / 4096 = op
  · rw [h1 hrow]
    rcases hk with rfl | rfl | rfl
    · rw [if_pos (by decide)]; omega
    · rw [if_neg (by decide), if_neg (by decide), hs]; omega
    · rw [if_neg (by decide), if_pos (by decide), hs]; omega
  · refine iff_of_false (fun h => hrow ?_) (fun h => hrow h.1)
    split at h
    · omega
    · split at h <;> omega

theorem cls : Statement .cls := of_row 0x0 256 0xE0 "CLS" (by decide) rfl rfl rfl (by decide)

theorem ret : Statement .ret := of_row 0x0 256 0xEE "RET" (by decide) rfl rfl rfl (by decide)

theorem jp (nnn : BitVec 12) : Statement (.jp nnn) :=
  of_row 0x1 1 0 "JP" (by decide) rfl (by have := nnn.isLt; rw [encode, packNNN_toNat (by decide)]; omega) (by have := nnn.isLt; rw [encode, packNNN_toNat (by decide)]; omega) (by decide)

theorem call (nnn : BitVec 12) : Statement (.call nnn) :=
  of_row 0x2 1 0 "CALL" (by decide) rfl (by have := nnn.isLt; rw [encode, packNNN_toNat (by decide)]; omega) (by have := nnn.isLt; rw [encode, packNNN_toNat (by decide)]; omega) (by decide)

theorem seImm (x : RegIdx) (nn : Byte) : Statement (.seImm x nn) :=
  of_row 0x3 1 0 "SE_IMM" (by decide) rfl (by have := nn.isLt; rw [encode, packXNN_toNat (by decide)]; omega) (by have := nn.isLt; rw [encode, packXNN_toNat (by decide)]; omega) (by decide)

theorem sneImm (x : RegIdx) (nn : Byte) : Statement (.sneImm x nn) :=
  of_row 0x4 1 0 "SNE_IMM" (by decide) rfl (by have := nn.isLt; rw [encode, packXNN_toNat (by decide)]; omega) (by have := nn.isLt; rw [encode, packXNN_toNat (by decide)]; omega) (by decide)

theorem seReg (x y : RegIdx) : Statement (.seReg x y) :=
  of_row 0x5 1 0 "SE_REG" (by decide) rfl (by rw [encode, packXYN_toNat (by decide)]; omega) (by rw [encode, packXYN_toNat (by decide)]; omega) (by decide)

theorem ldImm (x : RegIdx) (nn : Byte) : Statement (.ldImm x nn) :=
  of_row 0x6 1 0 "LD_IMM" (by decide) rfl (by have := nn.isLt; rw [encode, packXNN_toNat (by decide)]; omega) (by have := nn.isLt; rw [encode, packXNN_toNat (by decide)]; omega) (by decide)

theorem addImm (x : RegIdx) (nn : Byte) : Statement (.addImm x nn) :=
  of_row 0x7 1 0 "ADD_IMM" (by decide) rfl (by have := nn.isLt; rw [encode, packXNN_toNat (by decide)]; omega) (by have := nn.isLt; rw [encode, packXNN_toNat (by decide)]; omega) (by decide)

theorem ldReg (x y : RegIdx) : Statement (.ldReg x y) :=
  of_row 0x8 16 0x0 "LD_REG" (by decide) rfl (by rw [encode, packXYN_toNat (by decide)]; omega) (by rw [encode, packXYN_toNat (by decide)]; omega) (by decide)

theorem orReg (x y : RegIdx) : Statement (.orReg x y) :=
  of_row 0x8 16 0x1 "OR" (by decide) rfl (by rw [encode, packXYN_toNat (by decide)]; omega) (by rw [encode, packXYN_toNat (by decide)]; omega) (by decide)

theorem andReg (x y : RegIdx) : Statement (.andReg x y) :=
  of_row 0x8 16 0x2 "AND" (by decide) rfl (by rw [encode, packXYN_toNat (by decide)]; omega) (by rw [encode, packXYN_toNat (by decide)]; omega) (by decide)

theorem xorReg (x y : RegIdx) : Statement (.xorReg x y) :=
  of_row 0x8 16 0x3 "XOR" (by decide) rfl (by rw [encode, packXYN_toNat (by decide)]; omega) (by rw [encode, packXYN_toNat (by decide)]; omega) (by decide)

theorem addReg (x y : RegIdx) : Statement (.addReg x y) :=
  of_row 0x8 16 0x4 "ADD_REG" (by decide) rfl (by rw [encode, packXYN_toNat (by decide)]; omega) (by rw [encode, packXYN_toNat (by decide)]; omega) (by decide)

theorem sub (x y : RegIdx) : Statement (.sub x y) :=
  of_row 0x8 16 0x5 "SUB" (by decide) rfl (by rw [encode, packXYN_toNat (by decide)]; omega) (by rw [encode, packXYN_toNat (by decide)]; omega) (by decide)

theorem shr (x y : RegIdx) : Statement (.shr x y) :=
  of_row 0x8 16 0x6 "SHR" (by decide) rfl (by rw [encode, packXYN_toNat (by decide)]; omega) (by rw [encode, packXYN_toNat (by decide)]; omega) (by decide)

theorem subn (x y : RegIdx) : Statement (.subn x y) :=
  of_row 0x8 16 0x7 "SUBN" (by decide) rfl (by rw [encode, packXYN_toNat (by decide)]; omega) (by rw [encode, packXYN_toNat (by decide)]; omega) (by decide)

theorem shl (x y : RegIdx) : Statement (.shl x y) :=
  of_row 0x8 16 0xE "SHL" (by decide) rfl (by rw [encode, packXYN_toNat (by decide)]; omega) (by rw [encode, packXYN_toNat (by decide)]; omega) (by decide)

theorem sneReg (x y : RegIdx) : Statement (.sneReg x y) :=
  of_row 0x9 1 0 "SNE_REG" (by decide) rfl (by rw [encode, packXYN_toNat (by decide)]; omega) (by rw [encode, packXYN_toNat (by decide)]; omega) (by decide)

theorem ldI (nnn : BitVec 12) : Statement (.ldI nnn) :=
  of_row 0xA 1 0 "LD_I" (by decide) rfl (by have := nnn.isLt; rw [encode, packNNN_toNat (by decide)]; omega) (by have := nnn.isLt; rw [encode, packNNN_toNat (by decide)]; omega) (by decide)

theorem jpV0 (nnn : BitVec 12) : Statement (.jpV0 nnn) :=
  of_row 0xB 1 0 "JP_V0" (by decide) rfl (by have := nnn.isLt; rw [encode, packNNN_toNat (by decide)]; omega) (by have := nnn.isLt; rw [encode, packNNN_toNat (by decide)]; omega) (by decide)

theorem rnd (x : RegIdx) (nn : Byte) : Statement (.rnd x nn) :=
  of_row 0xC 1 0 "RND" (by decide) rfl (by have := nn.isLt; rw [encode, packXNN_toNat (by decide)]; omega) (by have := nn.isLt; rw [encode, packXNN_toNat (by decide)]; omega) (by decide)

theorem drw (x y : RegIdx) (n : Fin 16) : Statement (.drw x y n) :=
  of_row 0xD 1 0 "DRW" (by decide) rfl (by rw [encode, packXYN_toNat (by decide)]; omega) (by rw [encode, packXYN_toNat (by decide)]; omega) (by decide)

theorem skp (x : RegIdx) : Statement (.skp x) :=
  of_row 0xE 256 0x9E "SKP" (by decide) rfl (by rw [encode, packXNN_toNat (by decide)]; simp; omega) (by rw [encode, packXNN_toNat (by decide)]; simp; omega) (by decide)

theorem sknp (x : RegIdx) : Statement (.sknp x) :=
  of_row 0xE 256 0xA1 "SKNP" (by decide) rfl (by rw [encode, packXNN_toNat (by decide)]; simp; omega) (by rw [encode, packXNN_toNat (by decide)]; simp; omega) (by decide)

theorem ldVxDt (x : RegIdx) : Statement (.ldVxDt x) :=
  of_row 0xF 256 0x07 "LD_VX_DT" (by decide) rfl (by rw [encode, packXNN_toNat (by decide)]; simp; omega) (by rw [encode, packXNN_toNat (by decide)]; simp; omega) (by decide)

theorem ldVxK (x : RegIdx) : Statement (.ldVxK x) :=
  of_row 0xF 256 0x0A "LD_VX_K" (by decide) rfl (by rw [encode, packXNN_toNat (by decide)]; simp; omega) (by rw [encode, packXNN_toNat (by decide)]; simp; omega) (by decide)

theorem ldDtVx (x : RegIdx) : Statement (.ldDtVx x) :=
  of_row 0xF 256 0x15 "LD_DT_VX" (by decide) rfl (by rw [encode, packXNN_toNat (by decide)]; simp; omega) (by rw [encode, packXNN_toNat (by decide)]; simp; omega) (by decide)

theorem ldStVx (x : RegIdx) : Statement (.ldStVx x) :=
  of_row 0xF 256 0x18 "LD_ST_VX" (by decide) rfl (by rw [encode, packXNN_toNat (by decide)]; simp; omega) (by rw [encode, packXNN_toNat (by decide)]; simp; omega) (by decide)

theorem addIVx (x : RegIdx) : Statement (.addIVx x) :=
  of_row 0xF 256 0x1E "ADD_I_VX" (by decide) rfl (by rw [encode, packXNN_toNat (by decide)]; simp; omega) (by rw [encode, packXNN_toNat (by decide)]; simp; omega) (by decide)

theorem ldFVx (x : RegIdx) : Statement (.ldFVx x) :=
  of_row 0xF 256 0x29 "LD_F_VX" (by decide) rfl (by rw [encode, packXNN_toNat (by decide)]; simp; omega) (by rw [encode, packXNN_toNat (by decide)]; simp; omega) (by decide)

theorem ldBVx (x : RegIdx) : Statement (.ldBVx x) :=
  of_row 0xF 256 0x33 "LD_B_VX" (by decide) rfl (by rw [encode, packXNN_toNat (by decide)]; simp; omega) (by rw [encode, packXNN_toNat (by decide)]; simp; omega) (by decide)

theorem ldMemVx (x : RegIdx) : Statement (.ldMemVx x) :=
  of_row 0xF 256 0x55 "LD_MEM_VX" (by decide) rfl (by rw [encode, packXNN_toNat (by decide)]; simp; omega) (by rw [encode, packXNN_toNat (by decide)]; simp; omega) (by decide)

theorem ldVxMem (x : RegIdx) : Statement (.ldVxMem x) :=
  of_row 0xF 256 0x65 "LD_VX_MEM" (by decide) rfl (by rw [encode, packXNN_toNat (by decide)]; simp; omega) (by rw [encode, packXNN_toNat (by decide)]; simp; omega) (by decide)

/-- The rows by group: where R96 has unknown words, which selectors are taken. -/
theorem row_groups : ∀ row ∈ opcodeMap,
    (row.1.toNat / 4096 ≠ 0x0 ∧ row.1.toNat / 4096 ≠ 0x8 ∧ row.1.toNat / 4096 ≠ 0xE ∧ row.1.toNat / 4096 ≠ 0xF) ∨
    (row.2.1 = 0xF0FF#16 ∧ row.1.toNat / 4096 = 0x0 ∧ row.1.toNat % 4096 ∈ [0xE0, 0xEE]) ∨
    (row.2.1 = 0xF00F#16 ∧ row.1.toNat / 4096 = 0x8 ∧ row.1.toNat % 4096 ∈ [0x0, 0x1, 0x2, 0x3, 0x4, 0x5, 0x6, 0x7, 0xE]) ∨
    (row.2.1 = 0xF0FF#16 ∧ row.1.toNat / 4096 = 0xE ∧ row.1.toNat % 4096 ∈ [0x9E, 0xA1]) ∨
    (row.2.1 = 0xF0FF#16 ∧ row.1.toNat / 4096 = 0xF ∧
      row.1.toNat % 4096 ∈ [0x07, 0x0A, 0x15, 0x18, 0x1E, 0x29, 0x33, 0x55, 0x65]) := by decide

theorem natMatch_op {v : Nat} {row : Word × Word × String} (h : natMatch v row) : v / 4096 = row.1.toNat / 4096 := by
  rw [natMatch] at h
  split at h
  · omega
  · split at h <;> omega

theorem nopUnknown (w : Word) : Statement (.nopUnknown w) := fun h row hrow => by
  rw [match_iff _ row hrow]
  have hn : ∀ row ∈ opcodeMap, row.2.2 ≠ "NOP_UNKNOWN" := by decide
  refine iff_of_false (fun hm => ?_) (hn row hrow)
  have hop := natMatch_op hm
  simp only [encode] at hm hop
  simp only [Instr.wellFormed, isUnknownWord, unknownInGroup0, unknownInGroup8, unknownInGroupE, unknownInGroupF,
    Bool.or_eq_true, Bool.and_eq_true, Bool.not_eq_true', beq_iff_eq, Bool.or_eq_false_iff, beq_eq_false_iff_ne,
    List.contains_cons, List.contains_nil, Bool.or_false] at h
  rcases row_groups row hrow with g | ⟨g, ho, hs⟩ | ⟨g, ho, hs⟩ | ⟨g, ho, hs⟩ | ⟨g, ho, hs⟩
  · omega
  all_goals
    simp only [List.mem_cons, List.not_mem_nil, or_false] at hs
    rw [natMatch, g] at hm
    first
      | rw [if_neg (by decide), if_pos rfl] at hm
      | rw [if_neg (by decide), if_neg (by decide)] at hm
    omega

end Sys2Proof.Laws.EncodesItsRow
end

