-- ==== Sys2Proof/Laws/Step.lean ====
section
/-! SUPPORT. What one event can be (00_scope.md R6): the inversion lemmas of `step` and `executorStep`, which later
proofs cite instead of unfolding either. -/

namespace Sys2Proof.Machine

theorem step_halted {s : State} {f : FaultCause} (h : s.fault = some f) : step s = .fault (.halted f) := by
  rw [step, h]

theorem step_tick {s : State} (hf : s.fault = none) (hd : s.ipt ≤ s.sc) : step s = .next (tick s) := by
  simp [step, hf, tickDue, hd]

theorem step_execute {s : State} (hf : s.fault = none) (hd : s.sc < s.ipt) : step s = executorStep s := by
  simp [step, hf, tickDue]; omega

theorem executorStep_fetch_fault {s : State} (h : 0xFFE < s.pc.toNat) :
    executorStep s = .next (s.setFault .memRangeFetch) := by
  rw [executorStep, fetchWord, if_pos (by simp; omega)]; rfl

theorem fetchWord_some {s : State} (h : s.pc.toNat ≤ 0xFFE) :
    fetchWord s = some (wordOfBytes (s.mem.read s.pc.toNat) (s.mem.read (s.pc.toNat + 1))) := by
  rw [fetchWord, if_neg (by simp; omega)]

theorem executorStep_run {s : State} {w : Word} (h : fetchWord s = some w) : executorStep s = runWord w s := by
  rw [executorStep, h]

/-- Everything `step` can do when it goes on: FAULT was None, and the event was a tick, a fetch fault, or the
instruction W at PC executed after the advance. -/
theorem step_cases {s t : State} (h : step s = .next t) :
    s.fault = none ∧
      ((s.ipt ≤ s.sc ∧ t = tick s) ∨
       (s.sc < s.ipt ∧ 0xFFE < s.pc.toNat ∧ t = s.setFault .memRangeFetch) ∨
       (s.sc < s.ipt ∧ s.pc.toNat ≤ 0xFFE ∧ ∃ w u, fetchWord s = some w ∧
          exec (decodeWord w) (s.setPc (s.pc + 2)) = .next u ∧ t = countStep u)) := by
  cases hf : s.fault with
  | some f => rw [step_halted hf] at h; cases h
  | none =>
    refine ⟨rfl, ?_⟩
    by_cases hd : s.ipt ≤ s.sc
    · rw [step_tick hf hd] at h
      exact .inl ⟨hd, by cases h; rfl⟩
    · have hd' : s.sc < s.ipt := by omega
      rw [step_execute hf hd'] at h
      by_cases hp : 0xFFE < s.pc.toNat
      · rw [executorStep_fetch_fault hp] at h
        exact .inr (.inl ⟨hd', hp, by cases h; rfl⟩)
      · have hp' : s.pc.toNat ≤ 0xFFE := by omega
        have hw := fetchWord_some hp'
        rw [executorStep_run hw, runWord, advancePc_eq] at h
        cases he : exec (decodeWord (wordOfBytes (s.mem.read s.pc.toNat) (s.mem.read (s.pc.toNat + 1))))
            (s.setPc (s.pc + 2)) with
        | next u =>
          rw [he] at h
          exact .inr (.inr ⟨hd', hp', _, u, hw, he, by cases h; rfl⟩)
        | fault f => rw [he] at h; cases h
        | refused r => rw [he] at h; cases h

theorem countStep_eq (s : State) :
    countStep s = { s with sc := if s.fault.isSome then s.sc else s.sc + 1 } := by
  rw [countStep]; split <;> rfl

/-! Runs, one event at a time. -/

theorem run_next_of (M : Host.Core) {k : Nat} {s t : M.State} (h : M.step s = .next t) : M.run (k + 1) s = M.run k t := by
  simp only [Host.Core.run, h]

theorem run_fault_of (M : Host.Core) {k : Nat} {s : M.State} {f : M.Fault} (h : M.step s = .fault f) :
    M.run (k + 1) s = .fault f := by
  simp only [Host.Core.run, h]

theorem run_next {k : Nat} {s t : State} (h : step s = .next t) : core.run (k + 1) s = core.run k t :=
  run_next_of core h

theorem run_fault {k : Nat} {s : State} {f : Fault} (h : step s = .fault f) : core.run (k + 1) s = .fault f :=
  run_fault_of core h

end Sys2Proof.Machine
end

