-- ==== Sys2Proof/Tests/Slice0.lean ====
section
/-! SUPPORT. The model's own tests: the well-formedness smoke, decodings written out from 30_encoding.md R94, single
steps with the vectors of 95_test_vectors.md (named in each docstring: TF, TC, TA, TM, TD, TK, TT), and a witness for
every obligation that has hypotheses. -/

namespace Sys2Proof.Tests

open Sys2Proof Sys2Proof.Machine

/-! ## Helpers -/

/-- The reset state with some registers set. -/
def withRegs (regs : List (RegIdx × Byte)) : State := regs.foldl (fun s r => s.setReg r.1 r.2) State.reset

/-- The state with bytes stored from an address on. -/
def withMem (a : Nat) (bytes : List Byte) (s : State) : State := s.setMem (s.mem.writeBytes a bytes)

/-- What a step on the word `w`, placed where the state fetches, leaves; nothing if it stops. -/
def after (w : Nat) (s : State) : Option State :=
  match step (s.withFetchWord 16 w) with
  | .next t => some t
  | .fault _ => none
  | .refused _ => none

/-- One observation of the state after a step. -/
def obs {α : Type} (f : State → α) (w : Nat) (s : State) : Option α := (after w s).map f

/-- Two registers and VF. -/
def regs (x y : RegIdx) (s : State) : Byte × Byte × Byte := (s.reg x, s.reg y, s.reg vf)

/-- PC as a number. -/
def pcNow (s : State) : Nat := s.pc.toNat

/-- The fault code and PC. -/
def faultAt (s : State) : Nat × Nat := (faultCode s, s.pc.toNat)

/-- A budget is open and PC stands at `a`. -/
def ready (a : Addr) (s : State) : State := { s with pc := a, sc := 0 }

/-- A stack holding one entry. -/
def stackOfOne (a : Addr) (s : State) : State := s.setStack (s.stk.set 0 a) 1

/-- A stack pointer without the entries. -/
def withSp (n : Fin 17) (s : State) : State := s.setStack s.stk n

/-- One key down. -/
def keyDown (k : KeyIdx) (s : State) : State := { s with key := s.key.set k.val true }

/-! ## Well-formedness: the one check, in its four groups (R96) -/

theorem test_wf_group0_refuses : (Instr.nopUnknown 0x00E0#16).wellFormed = false ∧
    (Instr.nopUnknown 0x0FEE#16).wellFormed = false ∧ (Instr.nopUnknown 0x0000#16).wellFormed = true := by decide

theorem test_wf_group8_refuses : (Instr.nopUnknown 0x8124#16).wellFormed = false ∧
    (Instr.nopUnknown 0x800E#16).wellFormed = false ∧ (Instr.nopUnknown 0x8128#16).wellFormed = true := by decide

theorem test_wf_groupE_refuses : (Instr.nopUnknown 0xE19E#16).wellFormed = false ∧
    (Instr.nopUnknown 0xE1A1#16).wellFormed = false ∧ (Instr.nopUnknown 0xE100#16).wellFormed = true := by decide

theorem test_wf_groupF_refuses : (Instr.nopUnknown 0xF107#16).wellFormed = false ∧
    (Instr.nopUnknown 0xF165#16).wellFormed = false ∧ (Instr.nopUnknown 0xF1FF#16).wellFormed = true := by decide

theorem test_wf_other_groups_refused : (Instr.nopUnknown 0x1ABC#16).wellFormed = false ∧
    (Instr.nopUnknown 0x5121#16).wellFormed = false ∧ (Instr.nopUnknown 0xD000#16).wellFormed = false := by decide

/-! ## Decoding: every constructor, by a word written from its row of R94 (op, x, y, n nibbles in that order) -/

theorem test_decode_control :
    decodeWord 0x00E0#16 = .cls ∧ decodeWord 0x00EE#16 = .ret ∧ decodeWord 0x1ABC#16 = .jp 0xABC#12 ∧
    decodeWord 0x2FED#16 = .call 0xFED#12 ∧ decodeWord 0x3A42#16 = .seImm 10 0x42#8 ∧
    decodeWord 0x4A43#16 = .sneImm 10 0x43#8 ∧ decodeWord 0x5120#16 = .seReg 1 2 ∧
    decodeWord 0x9340#16 = .sneReg 3 4 ∧ decodeWord 0xB123#16 = .jpV0 0x123#12 := by decide

theorem test_decode_alu :
    decodeWord 0x6A7F#16 = .ldImm 10 0x7F#8 ∧ decodeWord 0x71FF#16 = .addImm 1 0xFF#8 ∧
    decodeWord 0x8120#16 = .ldReg 1 2 ∧ decodeWord 0x8121#16 = .orReg 1 2 ∧ decodeWord 0x8122#16 = .andReg 1 2 ∧
    decodeWord 0x8123#16 = .xorReg 1 2 ∧ decodeWord 0x8124#16 = .addReg 1 2 ∧ decodeWord 0x8125#16 = .sub 1 2 ∧
    decodeWord 0x8126#16 = .shr 1 2 ∧ decodeWord 0x8127#16 = .subn 1 2 ∧ decodeWord 0x812E#16 = .shl 1 2 ∧
    decodeWord 0xC10F#16 = .rnd 1 0x0F#8 := by decide

theorem test_decode_memory :
    decodeWord 0xA300#16 = .ldI 0x300#12 ∧ decodeWord 0xF11E#16 = .addIVx 1 ∧ decodeWord 0xF229#16 = .ldFVx 2 ∧
    decodeWord 0xF333#16 = .ldBVx 3 ∧ decodeWord 0xF455#16 = .ldMemVx 4 ∧ decodeWord 0xF565#16 = .ldVxMem 5 := by
  decide

theorem test_decode_display_keys_timers :
    decodeWord 0xD125#16 = .drw 1 2 5 ∧ decodeWord 0xE19E#16 = .skp 1 ∧ decodeWord 0xE2A1#16 = .sknp 2 ∧
    decodeWord 0xF307#16 = .ldVxDt 3 ∧ decodeWord 0xF40A#16 = .ldVxK 4 ∧ decodeWord 0xF515#16 = .ldDtVx 5 ∧
    decodeWord 0xF618#16 = .ldStVx 6 := by decide

/-- The unknown words of TF1 to TF6. -/
theorem test_decode_unknown :
    decodeWord 0x0000#16 = .nopUnknown 0x0000#16 ∧ decodeWord 0x0123#16 = .nopUnknown 0x0123#16 ∧
    decodeWord 0x8128#16 = .nopUnknown 0x8128#16 ∧ decodeWord 0xE100#16 = .nopUnknown 0xE100#16 ∧
    decodeWord 0xF1FF#16 = .nopUnknown 0xF1FF#16 := by decide

/-- Aliases (R95): an ignored nibble does not matter. -/
theorem test_decode_alias :
    decodeWord 0x01E0#16 = .cls ∧ decodeWord 0x07EE#16 = .ret ∧ decodeWord 0x5121#16 = .seReg 1 2 ∧
    decodeWord 0x912F#16 = .sneReg 1 2 := by decide

/-- The byte at the lower address is the high byte (R64); fewer than two bytes are refused by name. -/
theorem test_decode_bytes :
    decode [0x81#8, 0x24#8, 0x55#8] = .ok (.addReg 1 2, [0x55#8]) ∧ bytesOfWord 0x8124#16 = [0x81#8, 0x24#8] ∧
    decode [] = .error (.truncated 0) ∧ decode [0x81#8] = .error (.truncated 1) ∧
    decodeTableWord 16 0x8124 = some (.addReg 1 2) ∧ decodeTableWord 8 0xE0 = some .cls := ⟨rfl, rfl, rfl, rfl, rfl, rfl⟩

/-! ## Single steps: fetch and unknown opcodes -/

/-- TF1, TF7, TF12. -/
theorem test_unknown_and_alias :
    obs pcNow 0x0000 State.reset = some 0x202 ∧ obs faultAt 0x0000 (ready 0xFFE State.reset) = some (0, 0x1000) ∧
    obs pcNow 0x5121 (withRegs [(1, 7), (2, 7)]) = some 0x204 := by decide

/-- TF8, TF9: a fetch beyond 0xFFE faults and PC stays. -/
theorem test_fetch_fault :
    step (ready 0xFFF State.reset) = .next { ready 0xFFF State.reset with fault := some .memRangeFetch } ∧
    step (ready 0x1000 State.reset) = .next { ready 0x1000 State.reset with fault := some .memRangeFetch } :=
  ⟨rfl, rfl⟩

/-- TF11: 07EE returns. -/
theorem test_ret_alias :
    obs (fun t => (t.pc.toNat, t.sp.val)) 0x07EE
      (ready 0x300 (State.reset.setStack ((State.reset.stk.set 0 0x0204#16).set 1 0x0ABC#16) 2)) = some (0xABC, 1) := by
  decide

/-! ## Single steps: control flow -/

/-- TC1, TC2. -/
theorem test_ret :
    obs (fun t => (t.pc.toNat, t.sp.val)) 0x00EE (ready 0x300 (stackOfOne 0x0204 State.reset)) = some (0x204, 0) ∧
    obs faultAt 0x00EE (ready 0x300 State.reset) = some (2, 0x302) := by decide

/-- TC3, TC4, TC5. -/
theorem test_jp :
    obs pcNow 0x1ABC State.reset = some 0xABC ∧ obs pcNow 0x1200 State.reset = some 0x200 ∧
    obs pcNow 0x1FFF State.reset = some 0xFFF := by decide

/-- TC6, TC7: the return address is pushed at index SP. -/
theorem test_call :
    obs (fun t => (t.pc.toNat, t.sp.val, t.stk[0].toNat)) 0x2ABC State.reset = some (0xABC, 1, 0x202) ∧
    obs (fun t => (t.pc.toNat, t.sp.val, t.stk[15].toNat)) 0x2ABC (withSp 15 State.reset) = some (0xABC, 16, 0x202) := by
  decide

/-- TC8. -/
theorem test_call_overflow :
    obs (fun t => (faultAt t, t.sp.val, decide (t.stk = State.reset.stk))) 0x2ABC (withSp 16 State.reset) =
      some ((1, 0x202), 16, true) := by decide

/-- TC9 to TC12. -/
theorem test_skip_imm :
    obs pcNow 0x3A42 (withRegs [(10, 0x42)]) = some 0x204 ∧ obs pcNow 0x3A42 (withRegs [(10, 0x41)]) = some 0x202 ∧
    obs pcNow 0x4A42 (withRegs [(10, 0x41)]) = some 0x204 ∧ obs pcNow 0x4A42 (withRegs [(10, 0x42)]) = some 0x202 := by
  decide

/-- TC13, TC14, TC16, TC17. -/
theorem test_skip_reg :
    obs pcNow 0x5120 (withRegs [(1, 7), (2, 7)]) = some 0x204 ∧ obs pcNow 0x5120 (withRegs [(1, 7), (2, 8)]) = some 0x202 ∧
    obs pcNow 0x9120 (withRegs [(1, 7), (2, 8)]) = some 0x204 ∧ obs pcNow 0x9120 (withRegs [(1, 7), (2, 7)]) = some 0x202 := by
  decide

/-- TC19, TC20: no 12-bit mask. -/
theorem test_jp_v0 :
    obs pcNow 0xB300 (withRegs [(0, 0x10)]) = some 0x310 ∧ obs pcNow 0xBFFF (withRegs [(0, 0xFF)]) = some 0x10FE := by
  decide

/-! ## Single steps: registers and the ALU -/

/-- TA1, TA2, TA4, TA5, TA6. -/
theorem test_loads :
    obs (·.reg 10) 0x6AFF State.reset = some 0xFF ∧ obs (·.reg vf) 0x6F12 State.reset = some 0x12 ∧
    obs (regs 1 2) 0x71FF (withRegs [(1, 1), (15, 0x55)]) = some (0, 0, 0x55) ∧
    obs (·.reg vf) 0x7F01 (withRegs [(15, 0xFF)]) = some 0 ∧
    obs (regs 1 2) 0x8120 (withRegs [(1, 1), (2, 0x99), (15, 0x55)]) = some (0x99, 0x99, 0x55) := by decide

/-- TA7, TA8, TA9. -/
theorem test_or :
    obs (regs 1 2) 0x8121 (withRegs [(1, 0xF0), (2, 0x0C), (15, 1)]) = some (0xFC, 0x0C, 0) ∧
    obs (·.reg vf) 0x8F11 (withRegs [(15, 0xF0), (1, 0x0F)]) = some 0 ∧
    obs (regs 1 1) 0x81F1 (withRegs [(1, 0x0F), (15, 0xF0)]) = some (0xFF, 0xFF, 0) := by decide

/-- TA10, TA12. -/
theorem test_and_xor :
    obs (regs 1 2) 0x8122 (withRegs [(1, 0xF0), (2, 0x3C), (15, 1)]) = some (0x30, 0x3C, 0) ∧
    obs (regs 1 2) 0x8123 (withRegs [(1, 0xFF), (2, 0x0F), (15, 1)]) = some (0xF0, 0x0F, 0) := by decide

/-- S2, TA15, TA19, TA21. -/
theorem test_add :
    obs (regs 1 2) 0x8124 (withRegs [(1, 0xF0), (2, 0x20)]) = some (0x10, 0x20, 1) ∧
    obs (regs 1 2) 0x8124 (withRegs [(1, 0xFF), (2, 0x01)]) = some (0, 1, 1) ∧
    obs (·.reg vf) 0x8F14 (withRegs [(15, 0x80), (1, 0x80)]) = some 1 ∧
    obs (regs 1 1) 0x81F4 (withRegs [(1, 1), (15, 0xFF)]) = some (0, 0, 1) := by decide

/-- S3, TA22, TA27. -/
theorem test_sub :
    obs (regs 1 2) 0x8125 (withRegs [(1, 0x10), (2, 0x20), (15, 1)]) = some (0xF0, 0x20, 0) ∧
    obs (regs 1 2) 0x8125 (withRegs [(1, 0x33), (2, 0x33)]) = some (0, 0x33, 1) ∧
    obs (regs 1 1) 0x81F5 (withRegs [(1, 5), (15, 3)]) = some (2, 2, 1) := by decide

/-- TA35, TA36, TA38. -/
theorem test_subn :
    obs (regs 1 2) 0x8127 (withRegs [(1, 0x10), (2, 0x20)]) = some (0x10, 0x20, 1) ∧
    obs (regs 1 2) 0x8127 (withRegs [(1, 0x20), (2, 0x10), (15, 1)]) = some (0xF0, 0x10, 0) ∧
    obs (·.reg vf) 0x8F17 (withRegs [(15, 3), (1, 5)]) = some 1 := by decide

/-- TA28, TA29, TA32. -/
theorem test_shr :
    obs (regs 1 2) 0x8126 (withRegs [(1, 0xAA), (2, 0x81)]) = some (0x40, 0x81, 1) ∧
    obs (regs 1 2) 0x8126 (withRegs [(1, 0xAA), (2, 0x04), (15, 1)]) = some (0x02, 0x04, 0) ∧
    obs (regs 1 1) 0x81F6 (withRegs [(15, 3)]) = some (1, 1, 1) := by decide

/-- TA39, TA40, TA43. -/
theorem test_shl :
    obs (regs 1 2) 0x812E (withRegs [(1, 0), (2, 0xFF)]) = some (0xFE, 0xFF, 1) ∧
    obs (regs 1 2) 0x812E (withRegs [(2, 0x40), (15, 1)]) = some (0x80, 0x40, 0) ∧
    obs (·.reg vf) 0x8F1E (withRegs [(1, 0x81)]) = some 1 := by decide

/-- TA45, TA48: the byte the source supplies is masked and used up. -/
theorem test_rnd :
    obs (fun t => (t.reg 1, t.rndIn)) 0xC10F { withRegs [(1, 0xFF)] with rndIn := [0xA7, 0x11] } = some (0x07, [0x11]) ∧
    obs (·.reg vf) 0xCF3C { State.reset with rndIn := [0xFF] } = some 0x3C := by decide

/-! ## Single steps: I and memory -/

/-- TM1, TM3, TM4. -/
theorem test_index :
    obs (·.i.toNat) 0xA123 State.reset = some 0x123 ∧
    obs (·.i.toNat) 0xF11E ((withRegs [(1, 1)]).setI 0x0FFF) = some 0x1000 ∧
    obs (fun t => (t.i.toNat, t.reg vf)) 0xF11E ((withRegs [(1, 2), (15, 0x55)]).setI 0xFFFF) = some (1, 0x55) := by decide

/-- TM6, TM9, TM10. -/
theorem test_glyph :
    obs (·.i.toNat) 0xF129 (withRegs [(1, 0x0A)]) = some 0x082 ∧ obs (·.i.toNat) 0xF129 (withRegs [(1, 0x1A)]) = some 0x082 ∧
    obs (·.i.toNat) 0xF129 (withRegs [(1, 0xFF)]) = some 0x09B := by decide

/-- TM11, TM17. -/
theorem test_bcd :
    obs (fun t => (t.mem.readBytes 0x300 3, t.i.toNat)) 0xF133 ((withRegs [(1, 0xFE)]).setI 0x300) = some ([2, 5, 4], 0x300) ∧
    obs (fun t => (t.mem.readBytes 0xFFD 3)) 0xF133 ((withRegs [(1, 0x7B)]).setI 0xFFD) = some [1, 2, 3] := by decide

/-- TM18, TM19: no byte is written. -/
theorem test_bcd_fault :
    obs (fun t => (faultAt t, t.mem.readBytes 0xFFE 2)) 0xF133 ((withRegs [(1, 0x7B)]).setI 0xFFE) = some ((4, 0x202), [0, 0]) ∧
    obs faultAt 0xF133 ((withRegs [(1, 0x7B)]).setI 0x1000) = some (4, 0x202) := by decide

/-- TM21, TM22. -/
theorem test_dump :
    obs (fun t => (t.mem.readBytes 0x400 4, t.i.toNat)) 0xF255
      ((withRegs [(0, 0x11), (1, 0x22), (2, 0x33), (3, 0x44)]).setI 0x400) = some ([0x11, 0x22, 0x33, 0], 0x403) ∧
    obs (fun t => (t.mem.read 0xFFF, t.i.toNat)) 0xF055 ((withRegs [(0, 0xAB)]).setI 0xFFF) = some (0xAB, 0x1000) := by decide

/-- TM23. -/
theorem test_dump_fault :
    obs (fun t => (faultAt t, t.mem.read 0xFFF, t.i.toNat)) 0xF155 ((withRegs [(0, 0xAB), (1, 0xCD)]).setI 0xFFF) =
      some ((4, 0x202), 0, 0xFFF) := by decide

/-- TM26, TM30. -/
theorem test_fill :
    obs (fun t => (t.reg 0, t.reg 1, t.reg 2, t.reg 3, t.i.toNat)) 0xF265
      ((withMem 0x400 [0x11, 0x22, 0x33, 0x44] (withRegs [(3, 0x99)])).setI 0x400) =
        some (0x11, 0x22, 0x33, 0x99, 0x403) ∧
    obs (fun t => (t.reg 0, t.reg 1, t.reg 2, t.reg 3, t.reg 4)) 0xF465 (State.reset.setI 0x073) =
        some (0xF0, 0x10, 0x20, 0x40, 0x40) := by decide

/-- TM28. -/
theorem test_fill_fault :
    obs (fun t => (faultAt t, t.reg 0, t.reg 1, t.i.toNat)) 0xF165 ((withRegs [(0, 1), (1, 2)]).setI 0xFFF) =
      some ((4, 0x202), 1, 2, 0xFFF) := by decide

/-- TM20: FX33 over its own bytes; the next fetch reads the new byte (R71). -/
theorem test_self_modify :
    obs (fun t => (t.mem.readBytes 0x200 3, (fetchWord t).map (·.toNat / 256))) 0xF033 ((withRegs [(0, 0x12)]).setI 0x200) =
      some ([0, 1, 8], some 8) := by decide

/-! ## Single steps: display -/

/-- A framebuffer with the listed pixels (column, row) lit. -/
def lit (pixels : List (Nat × Nat)) : FrameBuffer := pixels.foldl (fun fb p => fb.toggle p.2 p.1) .blank

/-- A row of the framebuffer, the columns that are lit. -/
def rowLit (r : Nat) (s : State) : List Nat := (List.range 64).filter (fun c => s.fb.pixel r c)

/-- TD1. -/
theorem test_cls :
    obs (fun t => (decide (t.fb = .blank), t.reg vf, t.i.toNat)) 0x00E0
      (((withRegs [(15, 1)]).setI 0x123).setFb (lit [(0, 0), (63, 31), (10, 10)])) = some (true, 1, 0x123) := by decide

/-- TD2: clipped at the right edge and at the bottom, nothing wraps. -/
theorem test_draw_clips :
    obs (fun t => (rowLit 31 t, rowLit 0 t, t.reg vf)) 0xD122
      ((withMem 0x300 [0xFF, 0xFF] (withRegs [(1, 0x3C), (2, 0x1F)])).setI 0x300) =
        some ([60, 61, 62, 63], [], 0) := by decide

/-- TD9: one pixel turned off, one on; collision. -/
theorem test_draw_collides :
    obs (fun t => (rowLit 0 t, rowLit 1 t, t.reg vf)) 0xD121
      (((withMem 0x300 [0xC0] State.reset).setI 0x300).setFb (lit [(1, 0), (2, 0)])) = some ([0, 2], [], 1) := by decide

/-- TD3, TD11: the start position is reduced; the old VF is the x coordinate. -/
theorem test_draw_start :
    obs (fun t => (rowLit 1 t, t.reg vf)) 0xD121 ((withMem 0x300 [0x80] (withRegs [(1, 0x45), (2, 0x21)])).setI 0x300) =
      some ([5], 0) ∧
    obs (fun t => (rowLit 2 t, t.reg vf)) 0xDF11 ((withMem 0x300 [0x80] (withRegs [(15, 8), (1, 2)])).setI 0x300) =
      some ([8], 0) := by decide

/-- TD4, TD5, TD7: no rows reads nothing; the whole span is checked. -/
theorem test_draw_span :
    obs (fun t => (faultAt t, t.reg vf)) 0xD120 ((withRegs [(15, 1)]).setI 0x1234) = some ((0, 0x202), 0) ∧
    obs (fun t => (faultAt t, t.reg vf)) 0xD123 ((withRegs [(15, 1)]).setI 0xFFE) = some ((4, 0x202), 1) ∧
    obs faultAt 0xD123 ((withRegs [(2, 0x1F)]).setI 0xFFE) = some (4, 0x202) := by decide

/-! ## Single steps: keypad and timers -/

/-- TK1 to TK6. -/
theorem test_key_skips :
    obs pcNow 0xE19E (keyDown 5 (withRegs [(1, 0x05)])) = some 0x204 ∧ obs pcNow 0xE19E (withRegs [(1, 0x05)]) = some 0x202 ∧
    obs pcNow 0xE19E (keyDown 5 (withRegs [(1, 0x15)])) = some 0x204 ∧ obs pcNow 0xE1A1 (withRegs [(1, 0x05)]) = some 0x204 ∧
    obs pcNow 0xE1A1 (keyDown 5 (withRegs [(1, 0x05)])) = some 0x202 ∧
    obs pcNow 0xE1A1 (keyDown 3 (withRegs [(1, 0xF3)])) = some 0x202 := by decide

/-- PC, KL and V2. -/
def keyWaitView (s : State) : Nat × Option KeyIdx × Byte := (s.pc.toNat, s.kl, s.reg 2)

/-- TK7, TK8, TK10. -/
theorem test_key_wait_stays :
    obs keyWaitView 0xF20A (ready 0x20A State.reset) = some (0x20A, none, 0) ∧
    obs keyWaitView 0xF20A (ready 0x20A (keyDown 3 (keyDown 7 State.reset))) = some (0x20A, some 3, 0) ∧
    obs keyWaitView 0xF20A (ready 0x20A ((keyDown 2 (keyDown 7 State.reset)).setKl (some 7))) =
      some (0x20A, some 7, 0) := by decide

/-- TK11, TK12, TK13. -/
theorem test_key_wait_commits :
    obs keyWaitView 0xF20A (ready 0x20A ((withRegs [(2, 0xEE)]).setKl (some 7))) = some (0x20C, none, 7) ∧
    obs keyWaitView 0xF20A (ready 0x20A ((keyDown 2 State.reset).setKl (some 7))) = some (0x20C, none, 7) ∧
    obs (·.reg vf) 0xFF0A (ready 0x20A ((withRegs [(15, 9)]).setKl (some 0))) = some 0 := by decide

/-- TK15, TK16, TK17. -/
theorem test_delay_timer :
    obs (fun t => (t.reg 1, t.dt)) 0xF107 (State.reset.setDt 0x2A) = some (0x2A, 0x2A) ∧
    obs (·.dt) 0xF115 (withRegs [(1, 0x2A)]) = some 0x2A ∧ obs (·.dt) 0xF115 (State.reset.setDt 9) = some 0 := by decide

/-- TK18, TK19. -/
theorem test_sound_timer :
    obs (fun t => (t.st, soundActive t)) 0xF118 (withRegs [(1, 2)]) = some (2, true) ∧
    obs (fun t => (t.st, soundActive t)) 0xF118 (State.reset.setSt 9) = some (0, false) := by decide

/-! ## Ticks -/

/-- The state after one event. -/
def event {α : Type} (f : State → α) (s : State) : Option α :=
  match step s with
  | .next t => some (f t)
  | .fault _ => none
  | .refused _ => none

/-- TT1, TT3: each timer falls by one, KEY takes the inputs, a budget opens. -/
theorem test_tick :
    event (fun t => (t.dt, t.st, t.sc)) (((State.reset.setDt 3).setSt 1)) = some (2, 0, 0) ∧
    event (fun t => (t.key.toList, t.keyIn.length)) { State.reset with keyIn := [(keyDown 4 State.reset).key] } =
      some ([false, false, false, false, true] ++ List.replicate 11 false, 0) ∧
    event (fun t => (t.dt, t.st)) ((State.reset.setDt 0xFF).setSt 0xFF) = some (0xFE, 0xFE) := by decide

/-- TT2: a timer at 0 stays at 0. -/
theorem test_tick_floor : event (fun t => (t.dt, t.st)) State.reset = some (0, 0) := by decide

/-- TT4: after a fault no event is enabled. -/
theorem test_no_tick_after_fault :
    step ((State.reset.setDt 5).setFault .stackOverflow) = .fault (.halted .stackOverflow) := rfl

/-- TT5: with SC < IPT the next event is a step, not a tick. -/
theorem test_step_before_tick : event (fun t => (t.sc, t.pc.toNat, t.dt)) { State.reset with sc := 3, dt := 7 } =
    some (4, 0x202, 7) := by decide

/-! ## Reset, load, placing a word -/

/-- The image of P1 after reset and load: program at 0x200, glyph 7 at 0x073, zero elsewhere. -/
theorem test_load :
    (resetAndLoad 15 Params.font [0x60, 0x00, 0x61, 0x05]).map
      (fun s => (s.mem.readBytes 0x200 5, s.mem.readBytes 0x073 5, s.pc.toNat, s.sc)) =
    some ([0x60, 0x00, 0x61, 0x05, 0x00], [0xF0, 0x10, 0x20, 0x40, 0x40], 0x200, 15) := by decide

/-- A placed word runs as the first instruction after reset. -/
theorem test_placed_word_runs :
    step (State.reset.withFetchWord 16 0x6A7F) = runWord 0x6A7F#16 (State.reset.withFetchWord 16 0x6A7F) ∧
    obs (fun t => (t.reg 10, t.pc.toNat, t.sc)) 0x6A7F State.reset = some (0x7F, 0x202, 1) := ⟨rfl, by decide⟩

/-- Pixel (2, 1) is number 66 of `fb`; the fault codes are those of R32. -/
theorem test_outputs :
    (fbOut (State.reset.setFb (lit [(2, 1)])))[66]? = some true ∧ faultCode State.reset = 0 ∧
    faultCode (State.reset.setFault .stackOverflow) = 1 ∧ faultCode (State.reset.setFault .memRangeData) = 4 := by decide

/-! ## Witnesses: for each obligation with hypotheses, concrete values that meet them, at the ends of their ranges -/

/-- A state with I set. -/
def atI (a : Addr) : State := State.reset.setI a

/-- A budget is open. -/
def started : State := ready 0x200 State.reset

theorem test_witness_DecodeOfEncodeIsIdentity :
    (Instr.nopUnknown 0x0000#16).wellFormed = true ∧ (Instr.nopUnknown 0xFFFF#16).wellFormed = true ∧
    (Instr.drw 15 15 15).wellFormed = true := by decide

theorem test_witness_EveryWordDecodesAsItsTableRow :
    (0x00E0, 0xF0FF, "CLS") ∈ opcodeMap ∧ 0x0FE0#16 &&& 0xF0FF#16 = 0x00E0#16 ∧
    (∀ row ∈ opcodeMap, 0xFFFF#16 &&& row.2.1 ≠ row.1) ∧ isUnknownWord 0xFFFF#16 = true := by decide

theorem test_witness_FetchIsBigEndian : (ready 0xFFE State.reset).pc.toNat ≤ 0xFFE := by decide

/-- An instruction that completes and one that faults, at 0x200 and at the last fetchable address. -/
theorem test_witness_StepRunsTheDecodedInstruction :
    let s := withMem 0x200 [0x00, 0xE0] started
    let u := withMem 0xFFE [0x00, 0xEE] (ready 0xFFE State.reset)
    (s.fault = none ∧ s.sc < s.ipt ∧ s.pc.toNat ≤ 0xFFE ∧ decode (s.mem.readBytes s.pc.toNat 2) = .ok (.cls, []) ∧
      ∃ t, exec .cls { s with pc := s.pc + 2 } = .next t ∧ t.fault = none) ∧
    (u.fault = none ∧ u.sc < u.ipt ∧ u.pc.toNat ≤ 0xFFE ∧ decode (u.mem.readBytes u.pc.toNat 2) = .ok (.ret, []) ∧
      ∃ t, exec .ret { u with pc := u.pc + 2 } = .next t ∧ t.fault ≠ none) :=
  ⟨⟨rfl, by decide, by decide, rfl, _, rfl, rfl⟩, rfl, by decide, by decide, rfl, _, rfl, by decide⟩

theorem test_witness_RunningMachineAlwaysSteps : State.reset.fault = none := rfl

theorem test_witness_FetchBeyondMemoryFaults :
    let s := ready 0xFFF State.reset
    s.fault = none ∧ s.sc < s.ipt ∧ 0xFFE < s.pc.toNat := by decide

theorem test_witness_HaltedMachineIsStuck : (State.reset.setFault .memRangeData).fault = some .memRangeData := rfl

theorem test_witness_PlacedWordRunsNext :
    0xFFFF < 0x10000 ∧ MemoryCanonical State.reset ∧ MemoryCanonical (withMem 0x200 [1, 2] (ready 0xFFF State.reset)) :=
  ⟨by decide, rfl, rfl⟩

/-- A jump to 0xFFF, after which no word can be fetched, and the jump to itself of TC4. -/
theorem test_witness_JumpAndIndexLoadTakeNNN :
    (∃ t, exec (.jp 0xFFF#12) State.reset = .next t ∧ fetchWord t = none) ∧
    (let s := withMem 0x200 [0x12, 0x00] started
     s.fault = none ∧ s.sc < s.ipt ∧ fetchWord s = some (BitVec.ofNat 16 (0x1000 + (0x200#12).toNat)) ∧
      s.pc.toNat = (0x200#12).toNat) := ⟨⟨_, rfl, by decide⟩, by decide⟩

theorem test_witness_CallPushesReturnAddress :
    State.reset.sp.val < 16 ∧ (withSp 15 State.reset).sp.val < 16 ∧ (withSp 16 State.reset).sp.val = 16 := by decide

theorem test_witness_ReturnPopsTopOfStack :
    (withSp 1 State.reset).sp.val = (0 : Fin 16).val + 1 ∧ (withSp 16 State.reset).sp.val = (15 : Fin 16).val + 1 ∧
    State.reset.sp.val = 0 ∧ (withSp 15 State.reset).sp.val < 16 := by decide

/-- Sixteen calls from an empty stack fill it; none from a full stack keep it full. -/
theorem test_witness_NestedCallsUnwind :
    State.reset.sp.val + (List.replicate 16 (0x300#12)).length = 16 ∧
    (withSp 16 State.reset).sp.val + ([] : List (BitVec 12)).length = 16 := by decide

theorem test_witness_RandomByteIsMasked :
    ({ State.reset with rndIn := [0xFF] } : State).rndIn = 0xFF :: [] ∧ State.reset.rndIn = [] ∧
    (0x0F#8).getLsbD 7 = false := by decide

theorem test_witness_BcdStoresThreeDigits :
    MemoryCanonical (atI 0xFFD) ∧ (atI 0xFFD).i.toNat + 2 ≤ 0xFFF ∧ MemoryCanonical (atI 0xFFE) ∧
    (atI 0xFFE).i.toNat + 2 > 0xFFF := ⟨rfl, by decide, rfl, by decide⟩

theorem test_witness_RegisterDumpStoresV0ToVx :
    MemoryCanonical (atI 0xFF0) ∧ (atI 0xFF0).i.toNat + (15 : RegIdx).val ≤ 0xFFF ∧
    (atI 0xFFF).i.toNat + (0 : RegIdx).val ≤ 0xFFF ∧ MemoryCanonical (atI 0xFF1) ∧
    (atI 0xFF1).i.toNat + (15 : RegIdx).val > 0xFFF := ⟨rfl, by decide, by decide, rfl, by decide⟩

theorem test_witness_RegisterLoadFillsV0ToVx :
    (atI 0xFF0).i.toNat + (15 : RegIdx).val ≤ 0xFFF ∧ (atI 0xFF1).i.toNat + (15 : RegIdx).val > 0xFFF := by decide

/-- And a later state with the same memory and the old I exists. -/
theorem test_witness_DumpThenLoadRestoresRegisters :
    MemoryCanonical (atI 0xFF0) ∧ (atI 0xFF0).i.toNat + (15 : RegIdx).val ≤ 0xFFF ∧
    ∀ t : State, (t.setI 0xFF0).mem = t.mem ∧ (t.setI 0xFF0).i = (atI 0xFF0).i :=
  ⟨rfl, by decide, fun _ => ⟨rfl, rfl⟩⟩

/-- Both stores at the top of memory, one of a single byte, and a later state that fetches across an end of the span. -/
theorem test_witness_StoresAreSeenByFetch :
    MemoryCanonical (atI 0xFFD) ∧ (atI 0xFFD).i.toNat + 2 ≤ 0xFFF ∧ (atI 0xFF0).i.toNat + (15 : RegIdx).val ≤ 0xFFF ∧
    MemoryCanonical (atI 0xFFF) ∧ (atI 0xFFF).i.toNat + (0 : RegIdx).val ≤ 0xFFF ∧
    (∀ t : State, (t.setPc 0xFFE).mem = t.mem ∧ (t.setPc 0xFFE).pc.toNat ≤ 0xFFE) ∧
    byteAfterStore [] 0xFFF 1 (fun _ => 0xAB) 0xFFF = 0xAB ∧ byteAfterStore [] 0xFFF 1 (fun _ => 0xAB) 0xFFE = 0 :=
  ⟨rfl, by decide, by decide, rfl, by decide, fun _ => ⟨rfl, by show (0xFFE#16).toNat ≤ 0xFFE; decide⟩, by decide, by decide⟩

theorem test_witness_MemoriesThatReadAlikeAreEqual :
    Memory.wf [(0x000, 1), (0xFFF, 5)] = true ∧
    ∀ a : Nat, a ≤ 0xFFF → Memory.read [(0x000, 1), (0xFFF, 5)] a = Memory.read [(0x000, 1), (0xFFF, 5)] a :=
  ⟨by decide, fun _ _ => rfl⟩

/-- In range at its end, no rows beyond it, a collision, none, and out of range. -/
theorem test_witness_DrawXorsSpriteAndSetsCollision :
    (atI 0xFF1).i.toNat + (15 : Fin 16).val - 1 ≤ 0xFFF ∧ (0 : Fin 16).val = 0 ∧
    (let s := State.reset.setFb (lit [(0, 0)])
     s.fb[(0 : Fin 32).val][(0 : Fin 64).val] = true ∧ spriteBit [(0x300, 0x80)] 0x300 0 0 1 0 0 = true) ∧
    State.reset.fb[(31 : Fin 32).val][(63 : Fin 64).val] = false ∧
    (1 ≤ (15 : Fin 16).val ∧ (atI 0xFF2).i.toNat + (15 : Fin 16).val - 1 > 0xFFF) := by decide

theorem test_witness_DrawTwiceRestoresDisplay :
    (0 : RegIdx) ≠ vf ∧ (14 : RegIdx) ≠ vf ∧ (atI 0xFF1).i.toNat + (15 : Fin 16).val - 1 ≤ 0xFFF := by decide

theorem test_witness_KeySkipsReadSnapshot :
    ((withRegs [(1, 0x15)]).reg 1).toNat % 16 = (5 : KeyIdx).val ∧
    ((withRegs [(1, 0xFF)]).reg 1).toNat % 16 = (15 : KeyIdx).val := by decide

/-- The four rows of R233, the third and fourth with the highest and the lowest key. -/
theorem test_witness_KeyWaitPolls :
    (State.reset.kl = none ∧ ∀ k : KeyIdx, State.reset.key[k.val] = false) ∧
    (let s := keyDown 15 State.reset
     s.kl = none ∧ s.key[(15 : KeyIdx).val] = true ∧ ∀ j : KeyIdx, j < 15 → s.key[j.val] = false) ∧
    (let s := (keyDown 15 State.reset).setKl (some 15); s.kl = some 15 ∧ s.key[(15 : KeyIdx).val] = true) ∧
    (let s := State.reset.setKl (some 0); s.kl = some 0 ∧ s.key[(0 : KeyIdx).val] = false) := by decide

theorem test_witness_KeyReleaseEndsTheWait :
    let s : State := { withMem 0xFFE [0xF2, 0x0A] (keyDown 7 State.reset) with
      pc := 0xFFE, kl := some 7, keyIn := [State.reset.key] }
    s.fault = none ∧ BudgetSound s ∧ s.sc = s.ipt ∧ s.kl = some 7 ∧ s.pc.toNat ≤ 0xFFE ∧
      decode (s.mem.readBytes s.pc.toNat 2) = .ok (.ldVxK 2, []) ∧ s.keyInNow[(7 : KeyIdx).val] = false :=
  ⟨rfl, ⟨by decide, by decide⟩, rfl, rfl, by decide, rfl, by decide⟩

theorem test_witness_TickAdvancesTimersAndSamplesKeys :
    State.reset.fault = none ∧ State.reset.sc = State.reset.ipt ∧ State.reset.keyIn = [] ∧
    ({ State.reset with keyIn := [State.reset.key] } : State).keyIn = State.reset.key :: [] := by decide

theorem test_witness_UnknownOpcodeIsNoOp :
    isUnknownWord 0x0000#16 = true ∧ started.fault = none ∧ started.sc < started.ipt ∧
    fetchWord started = some 0x0000#16 ∧ fetchWord (ready 0xFFE State.reset) = some 0x0000#16 := by decide

/-- Each fault condition met, and one instruction with none. -/
theorem test_witness_InstructionsFaultExactlyAsListed :
    faultCondition (.call 0x300) (withSp 16 State.reset) = some .stackOverflow ∧
    faultCondition .ret State.reset = some .stackUnderflow ∧
    faultCondition (.drw 0 0 15) (atI 0xFF2) = some .memRangeData ∧ faultCondition (.ldBVx 0) (atI 0xFFE) = some .memRangeData ∧
    faultCondition (.ldMemVx 15) (atI 0xFF1) = some .memRangeData ∧
    faultCondition (.ldVxMem 15) (atI 0xFF1) = some .memRangeData ∧ faultCondition (.drw 0 0 15) (atI 0xFF1) = none := by
  decide

theorem test_witness_FaultingStepIsPrecise :
    (∃ t, step (ready 0xFFF State.reset) = .next t ∧ t.fault = some .memRangeFetch) ∧
    (∃ t, step (withMem 0x200 [0x00, 0xEE] started) = .next t ∧ t.fault = some .stackUnderflow) :=
  ⟨⟨_, rfl, rfl⟩, _, rfl, by decide⟩

/-- A step for each clause in which that clause's state does change. -/
theorem test_witness_OnlyNamedInstructionsWriteState :
    (∃ t, exec (.ldMemVx 0) ((withRegs [(0, 9)]).setI 0x300) = .next t ∧ t.mem ≠ []) ∧
    (∃ t, exec .cls (State.reset.setFb (lit [(0, 0)])) = .next t ∧ t.fb ≠ lit [(0, 0)]) ∧
    (∃ t, exec (.ldDtVx 0) (withRegs [(0, 9)]) = .next t ∧ t.dt ≠ 0) ∧
    (∃ t, exec (.ldStVx 0) (withRegs [(0, 9)]) = .next t ∧ t.st ≠ 0) ∧
    (∃ t, exec (.ldVxK 0) (keyDown 1 State.reset) = .next t ∧ t.kl ≠ none) ∧
    (∃ t, exec (.call 0x300) State.reset = .next t ∧ t.sp ≠ 0) ∧ (∃ t, exec (.ldI 0x300) State.reset = .next t ∧ t.i ≠ 0) ∧
    (∃ t, exec (.rnd 0 1) State.reset = .next t ∧ t.rndDraws ≠ 0) :=
  ⟨⟨_, rfl, by decide⟩, ⟨_, rfl, by decide⟩, ⟨_, rfl, by decide⟩, ⟨_, rfl, by decide⟩, ⟨_, rfl, by decide⟩,
    ⟨_, rfl, by decide⟩, ⟨_, rfl, by decide⟩, _, rfl, by decide⟩

/-- A register changed, a flag written, and a draw that does not fault. -/
theorem test_witness_RegistersChangeOnlyAsNamed :
    (∃ t, exec (.ldImm 15 9) State.reset = .next t ∧ t.reg 15 ≠ State.reset.reg 15) ∧
    (∃ t, exec (.addReg 1 2) (withRegs [(1, 0xFF), (2, 1)]) = .next t ∧ t.reg vf = 1) ∧
    (∃ t, exec (.drw 0 0 15) (atI 0xFF1) = .next t ∧ t.fault = (atI 0xFF1).fault ∧
      faultCondition (.drw 0 0 15) (atI 0xFF1) = none) :=
  ⟨⟨_, rfl, by decide⟩, ⟨_, rfl, by decide⟩, _, rfl, rfl, by decide⟩

/-- Stacks that differ at index SP and agree below it. -/
theorem test_witness_PoppedEntriesAreUnobservable :
    let s := stackOfOne 0x0204 State.reset
    (∀ j : Fin 16, j.val < s.sp.val → (s.stk.set 1 0xABC#16)[j.val] = s.stk[j.val]) ∧ s.stk.set 1 0xABC#16 ≠ s.stk := by
  decide

theorem test_witness_FramesAreOneTickAndIptSteps :
    1 ≤ State.reset.ipt ∧ State.reset.sc = State.reset.ipt ∧
    ∃ t, core.run 2 State.reset = .next t ∧ t.fault = none := ⟨by decide, rfl, _, rfl, rfl⟩

/-- TC4: a self-jump at 0x200. -/
theorem test_witness_FinishedProgramIsFinal : finished (withMem 0x200 [0x12, 0x00] State.reset) = true := by decide

theorem test_witness_EveryEventKeepsMemoryCanonical :
    MemoryCanonical (withMem 0x200 [0xF0, 0x55] started) ∧ ∃ t, step (withMem 0x200 [0xF0, 0x55] started) = .next t :=
  ⟨rfl, _, rfl⟩

theorem test_witness_EveryEventKeepsBudget : BudgetSound started ∧ ∃ t, step started = .next t :=
  ⟨⟨by decide, by decide⟩, _, rfl⟩

/-- With a key latched at an FX0A. -/
theorem test_witness_EveryEventKeepsLatchAtKeyWait :
    let s := withMem 0x200 [0xF2, 0x0A] (started.setKl (some 7))
    s.kl ≠ none ∧ LatchAtKeyWait s ∧ ∃ t, step s = .next t :=
  ⟨by decide, fun _ => ⟨0xF20A#16, 2, by decide, by decide⟩, _, rfl⟩

/-- At the two ends: PC = 0x10FE, and a stack entry of 0x1000. -/
theorem test_witness_EveryEventKeepsControlInRange :
    let s := stackOfOne 0x1000 (ready 0x10FE State.reset)
    ControlInRange s ∧ ∃ t, step s = .next t :=
  ⟨⟨by decide, by decide⟩, _, rfl⟩

theorem test_witness_LoadedMachineStaysSafe :
    ∃ s t, resetAndLoad 1 Params.font [0x12, 0x00] = some s ∧ core.run 2 s = .next t := ⟨_, _, rfl, rfl⟩

theorem test_witness_ResetAndLoadGivesListedState :
    1 ≤ 1 ∧ fontImageOk Params.font = true ∧ (List.replicate 3584 (0xFF : Byte)).length ≤ 3584 ∧
    ([] : List Byte).length ≤ 3584 := ⟨by decide, by decide, by rw [List.length_replicate], by decide⟩

theorem test_witness_OversizedImagesAreRefused :
    3584 < (List.replicate 3585 (0 : Byte)).length ∧ (List.replicate 79 (0 : Byte)).length ≠ 80 :=
  ⟨by rw [List.length_replicate]; decide, by decide⟩

end Sys2Proof.Tests
end

section
/-! PROOFS. What `exec` does, said once for every instruction: it always answers a next state, which state of
10_state.md R37 each instruction may write, and which registers. -/

namespace Sys2Proof.Machine

variable {i : Instr} {s t : State}

theorem exec_ldVxK_unlatched {x : RegIdx} (h : s.kl = none) :
    exec (.ldVxK x) s = .next (stay (s.setKl s.leastPressed)) := by
  rw [exec_ldVxK, h]

theorem exec_ldVxK_held {x : RegIdx} {k : KeyIdx} (h : s.kl = some k) (hp : s.pressed k = true) :
    exec (.ldVxK x) s = .next (stay s) := by
  simp only [exec_ldVxK, h, hp, if_true]

theorem exec_ldVxK_released {x : RegIdx} {k : KeyIdx} (h : s.kl = some k) (hp : s.pressed k = false) :
    exec (.ldVxK x) s = .next ((s.setReg x (BitVec.ofNat 8 k.val)).setKl none) := by
  simp only [exec_ldVxK, h, hp, Bool.false_eq_true, if_false]

theorem exec_call_space {nnn : BitVec 12} (h : s.sp.val < 16) : exec (.call nnn) s =
    .next ((s.setStack (s.stk.set s.sp.val s.pc h) ⟨s.sp.val + 1, Nat.succ_lt_succ h⟩).setPc (zextNNN nnn)) :=
  (exec_call nnn s).trans (push_space h)

theorem exec_call_full {nnn : BitVec 12} (h : s.sp.val = 16) : exec (.call nnn) s = .next (s.setFault .stackOverflow) :=
  (exec_call nnn s).trans (push_full h)

theorem exec_ret_top (h : 0 < s.sp.val) : exec .ret s =
    .next ((s.setStack s.stk ⟨s.sp.val - 1, by omega⟩).setPc (s.stk[s.sp.val - 1]'(by omega))) :=
  (exec_ret s).trans (pop_top h)

theorem exec_ret_empty (h : s.sp.val = 0) : exec .ret s = .next (s.setFault .stackUnderflow) :=
  (exec_ret s).trans (pop_empty h)

theorem withSpan_total (n : Nat) (s u : State) : ∃ t, withSpan n s (.next u) = .next t := by
  cases h : spanOutOfRange s.i.toNat n with
  | true => exact ⟨_, withSpan_out h⟩
  | false => exact ⟨_, withSpan_in h⟩

/-- No meaning stops or is refused: a fault is a next state too (R101, R255). -/
theorem exec_total (i : Instr) (s : State) : ∃ t, exec i s = .next t := by
  cases i with
  | call nnn =>
    rcases Nat.lt_succ_iff_lt_or_eq.mp s.sp.isLt with h | h
    · exact ⟨_, exec_call_space h⟩
    · exact ⟨_, exec_call_full h⟩
  | ret =>
    rcases Nat.eq_zero_or_pos s.sp.val with h | h
    · exact ⟨_, exec_ret_empty h⟩
    · exact ⟨_, exec_ret_top h⟩
  | drw | ldBVx | ldMemVx | ldVxMem => exact withSpan_total _ s _
  | ldVxK x =>
    cases hk : s.kl with
    | none => exact ⟨_, exec_ldVxK_unlatched hk⟩
    | some k =>
      cases hp : s.pressed k with
      | true => exact ⟨_, exec_ldVxK_held hk hp⟩
      | false => exact ⟨_, exec_ldVxK_released hk hp⟩
  | _ => exact ⟨_, rfl⟩

/-- Settles O43, by the families of instructions: a skip writes PC alone, a flag instruction V alone, the stack, span and
key-wait instructions what their inversion lemmas say, every other one the field of its one named update. -/
theorem onlyNamedInstructionsWriteState : Obligations.OnlyNamedInstructionsWriteState := by
  unfold Obligations.OnlyNamedInstructionsWriteState
  intro i s t ht
  cases i with
  | seImm | sneImm | seReg | sneReg | skp | sknp => cases ht; simp [skipIf_eq]
  | orReg | andReg | xorReg | addReg | sub | shr | subn | shl => cases ht; simp [writeResultFlag]
  | drw | ldBVx | ldMemVx | ldVxMem =>
    rcases exec_span_cases rfl ht with ⟨-, rfl⟩ | ⟨-, rfl⟩
    · simp
    · simp [storeAtI, advanceI]
  | call =>
    rcases exec_call_cases ht with ⟨-, rfl⟩ | ⟨_, rfl⟩ <;> simp
  | ret =>
    rcases exec_ret_cases ht with ⟨-, rfl⟩ | ⟨_, rfl⟩ <;> simp
  | ldVxK =>
    rcases exec_ldVxK_cases ht with ⟨-, rfl⟩ | ⟨k, -, -, rfl⟩ | ⟨k, -, -, rfl⟩
    · simp [stay]
    · simp [stay]
    · simp
  | addIVx => cases ht; simp [advanceI]
  | _ => cases ht; simp

/-- The budget is no instruction's to write (R37). -/
theorem exec_budget (h : exec i s = .next t) : t.sc = s.sc ∧ t.ipt = s.ipt := by
  obtain ⟨-, -, -, -, -, -, -, -, -, hsc, hipt, -⟩ := onlyNamedInstructionsWriteState i s t h
  exact ⟨hsc, hipt⟩

/-- Memory changes only by a store (R37). -/
theorem exec_mem (h : exec i s = .next t) : t.mem = s.mem ∨ ∃ x, i = .ldBVx x ∨ i = .ldMemVx x := by
  obtain ⟨hmem, -⟩ := onlyNamedInstructionsWriteState i s t h
  exact or_iff_not_imp_left.mpr hmem

/-- The latch changes only by a key wait (R37). -/
theorem exec_kl (h : exec i s = .next t) : t.kl = s.kl ∨ ∃ x, i = .ldVxK x := by
  obtain ⟨-, -, -, -, hkl, -⟩ := onlyNamedInstructionsWriteState i s t h
  exact or_iff_not_imp_left.mpr hkl

theorem reg_setReg_changed {x r : RegIdx} {b : Byte} (h : (s.setReg x b).reg r ≠ s.reg r) : r = x := by
  by_contra hr
  exact h (by rw [State.reg_setReg, if_neg hr])

theorem reg_writeResultFlag_changed {x r : RegIdx} {result flag : Byte}
    (h : (writeResultFlag x result flag s).reg r ≠ s.reg r) : r = x ∨ r = vf := by
  by_contra hr
  obtain ⟨hx, hf⟩ := not_or.mp hr
  exact h (by rw [reg_writeResultFlag, if_neg hf, if_neg hx])

theorem reg_loadRegs_changed {x r : RegIdx} {m : Memory} {base : Nat}
    (h : (s.setRegs (loadRegs m base s.v (x.val + 1))).reg r ≠ s.reg r) : r.val ≤ x.val := by
  by_contra hr
  exact h (by rw [State.reg, State.setRegs_v, getElem_loadRegs, if_neg (by omega)]; rfl)

theorem reg_vf_writeResultFlag (x : RegIdx) (result flag : Byte) (s : State) :
    (writeResultFlag x result flag s).reg vf = flag := by
  rw [reg_writeResultFlag, if_pos rfl]

theorem flagByte_toNat_le (c : Bool) : (flagByte c).toNat ≤ 1 := by
  cases c <;> decide

/-- The first clause of O44: R22 and R37 as to V. -/
theorem exec_reg_changed (ht : exec i s = .next t) {r : RegIdx} (hr : t.reg r ≠ s.reg r) : mayWriteReg i r = true := by
  cases i with
  | ldImm | addImm | ldReg | rnd | ldVxDt =>
    cases ht
    exact beq_iff_eq.mpr (reg_setReg_changed hr)
  | orReg | andReg | xorReg | addReg | sub | shr | subn | shl =>
    cases ht
    simpa [mayWriteReg] using reg_writeResultFlag_changed hr
  | drw =>
    rcases exec_span_cases rfl ht with ⟨-, rfl⟩ | ⟨-, rfl⟩
    · exact absurd rfl hr
    · exact beq_iff_eq.mpr (reg_setReg_changed hr)
  | ldVxMem =>
    rcases exec_span_cases rfl ht with ⟨-, rfl⟩ | ⟨-, rfl⟩
    · exact absurd rfl hr
    · exact decide_eq_true (reg_loadRegs_changed hr)
  | ldBVx | ldMemVx =>
    rcases exec_span_cases rfl ht with ⟨-, rfl⟩ | ⟨-, rfl⟩ <;> exact absurd rfl hr
  | call =>
    rcases exec_call_cases ht with ⟨-, rfl⟩ | ⟨_, rfl⟩ <;> exact absurd rfl hr
  | ret =>
    rcases exec_ret_cases ht with ⟨-, rfl⟩ | ⟨_, rfl⟩ <;> exact absurd rfl hr
  | ldVxK =>
    rcases exec_ldVxK_cases ht with ⟨-, rfl⟩ | ⟨k, -, -, rfl⟩ | ⟨k, -, -, rfl⟩
    · exact absurd rfl hr
    · exact absurd rfl hr
    · exact beq_iff_eq.mpr (reg_setReg_changed hr)
  | seImm | sneImm | seReg | sneReg | skp | sknp =>
    cases ht
    exact absurd (by rw [skipIf_eq]; rfl) hr
  | _ => cases ht; exact absurd rfl hr

/-- The second clause of O44: an instruction "Vx = ..; VF = .." leaves 0 or 1 in VF, x = 0xF included (R22, R173). -/
theorem exec_alu_flag_le {x y : RegIdx} (hi : i = .orReg x y ∨ i = .andReg x y ∨ i = .xorReg x y ∨ i = .addReg x y ∨
    i = .sub x y ∨ i = .shr x y ∨ i = .subn x y ∨ i = .shl x y) (ht : exec i s = .next t) : (t.reg vf).toNat ≤ 1 := by
  rcases hi with rfl | rfl | rfl | rfl | rfl | rfl | rfl | rfl
  all_goals cases ht; rw [reg_vf_writeResultFlag]
  case inl | inr.inl | inr.inr.inl => exact Nat.zero_le 1
  all_goals exact flagByte_toNat_le _

/-- A draw whose fault condition does not hold leaves the collision flag in VF (R211). -/
theorem exec_drw_flag_le {x y : RegIdx} {n : Fin 16} (hc : faultCondition (.drw x y n) s = none)
    (ht : exec (.drw x y n) s = .next t) : (t.reg vf).toNat ≤ 1 := by
  rcases exec_span_cases rfl ht with ⟨hs, rfl⟩ | ⟨-, rfl⟩
  · rw [spanOutOfRange_iff] at hs
    rw [faultCondition, if_pos ⟨hs.1, by omega⟩] at hc
    cases hc
  · rw [State.reg_setReg, if_pos rfl]
    exact flagByte_toNat_le _

/-- Settles O44: the three clauses are the lemmas above. -/
theorem registersChangeOnlyAsNamed : Obligations.RegistersChangeOnlyAsNamed := by
  unfold Obligations.RegistersChangeOnlyAsNamed
  intro i s t ht
  refine ⟨fun r => exec_reg_changed ht, fun x y hi => exec_alu_flag_le hi ht, ?_⟩
  rintro x y n rfl - hc
  exact exec_drw_flag_le hc ht

end Sys2Proof.Machine
end

section
/-! PROOFS. What every event keeps: the canonical form of memory, the budget, and the latch of a key wait. Each rests on
`step_cases` and on who writes the state concerned. -/

namespace Sys2Proof.Machine

variable {s t : State}

@[simp] theorem countStep_pc (s : State) : (countStep s).pc = s.pc := by rw [countStep_eq]
@[simp] theorem countStep_mem (s : State) : (countStep s).mem = s.mem := by rw [countStep_eq]
@[simp] theorem countStep_kl (s : State) : (countStep s).kl = s.kl := by rw [countStep_eq]
@[simp] theorem countStep_ipt (s : State) : (countStep s).ipt = s.ipt := by rw [countStep_eq]

theorem countStep_sc_le (s : State) : (countStep s).sc ≤ s.sc + 1 := by
  rw [countStep_eq]
  dsimp only
  split
  · exact Nat.le_succ _
  · exact Nat.le_refl _

/-- A fetch depends on PC and memory alone (R121). -/
theorem fetchWord_congr (hpc : t.pc = s.pc) (hmem : t.mem = s.mem) : fetchWord t = fetchWord s := by
  rw [fetchWord, fetchWord, hpc, hmem]

/-- A store whose span passed the range check keeps memory canonical. -/
theorem storeAtI_keeps_memoryCanonical {bytes : List Byte} (hs : MemoryCanonical s)
    (h : spanOutOfRange s.i.toNat bytes.length = false) : MemoryCanonical (storeAtI bytes s) := by
  rw [← Bool.not_eq_true, spanOutOfRange_iff] at h
  cases bytes with
  | nil => exact hs
  | cons b bs => exact Memory.wf_writeBytes hs (by rw [List.length_cons] at h ⊢; omega)

/-- The two stores check their span first, and nothing else writes memory. -/
theorem exec_keeps_memoryCanonical {i : Instr} (hs : MemoryCanonical s) (ht : exec i s = .next t) :
    MemoryCanonical t := by
  rcases exec_mem ht with h | ⟨x, rfl | rfl⟩
  · rwa [MemoryCanonical, h]
  · rcases exec_span_cases rfl ht with ⟨-, rfl⟩ | ⟨hin, rfl⟩
    · exact hs
    · exact storeAtI_keeps_memoryCanonical hs hin
  · rcases exec_span_cases rfl ht with ⟨-, rfl⟩ | ⟨hin, rfl⟩
    · exact hs
    · exact storeAtI_keeps_memoryCanonical hs (by rwa [State.regsUpTo_length])

/-- Settles O50: a tick and a fetch fault leave memory alone, an executed instruction keeps its form. -/
theorem everyEventKeepsMemoryCanonical : Obligations.EveryEventKeepsMemoryCanonical := by
  unfold Obligations.EveryEventKeepsMemoryCanonical
  intro s t hs h
  obtain ⟨-, ⟨-, rfl⟩ | ⟨-, -, rfl⟩ | ⟨-, -, w, u, -, hu, rfl⟩⟩ := step_cases h
  · exact hs
  · exact hs
  · rw [MemoryCanonical, countStep_mem]
    exact exec_keeps_memoryCanonical (s := s.setPc (s.pc + 2)) hs hu

/-- Settles O51: SC is reset by a tick, and a step, which is enabled below IPT only, adds at most 1. -/
theorem everyEventKeepsBudget : Obligations.EveryEventKeepsBudget := by
  unfold Obligations.EveryEventKeepsBudget
  rintro s t ⟨hipt, hsc⟩ h
  obtain ⟨-, ⟨-, rfl⟩ | ⟨-, -, rfl⟩ | ⟨hlt, -, w, u, -, hu, rfl⟩⟩ := step_cases h
  · exact ⟨hipt, Nat.zero_le _⟩
  · exact ⟨hipt, hsc⟩
  · obtain ⟨husc, huipt⟩ := exec_budget hu
    rw [State.setPc_sc] at husc
    rw [State.setPc_ipt] at huipt
    have := countStep_sc_le u
    exact ⟨by rw [countStep_ipt]; omega, by rw [countStep_ipt]; omega⟩

/-- A poll of the key wait that leaves a key latched has put PC back on the FX0A and stored nothing (R232, R233). -/
theorem exec_ldVxK_latched {x : RegIdx} (ht : exec (.ldVxK x) s = .next t) (hkl : t.kl ≠ none) :
    t.pc = s.pc - 2 ∧ t.mem = s.mem := by
  rcases exec_ldVxK_cases ht with ⟨-, rfl⟩ | ⟨k, -, -, rfl⟩ | ⟨k, -, -, rfl⟩
  · exact ⟨rfl, rfl⟩
  · exact ⟨rfl, rfl⟩
  · exact absurd rfl hkl

/-- Settles O52. If a key is latched after an executed instruction, that instruction was an FX0A: by the invariant if it
was latched before, and because nothing else writes KL if it was not. That FX0A has gone back to itself. -/
theorem everyEventKeepsLatchAtKeyWait : Obligations.EveryEventKeepsLatchAtKeyWait := by
  unfold Obligations.EveryEventKeepsLatchAtKeyWait
  intro s t hs h
  obtain ⟨-, ⟨-, rfl⟩ | ⟨-, -, rfl⟩ | ⟨-, -, w, u, hw, hu, rfl⟩⟩ := step_cases h
  · exact hs
  · exact hs
  · intro hkl
    rw [countStep_kl] at hkl
    have hwait : ∃ x, decodeWord w = .ldVxK x := by
      rcases exec_kl hu with hsame | hwait
      · obtain ⟨w', x, hw', hx⟩ := hs (by rwa [hsame] at hkl)
        rw [hw] at hw'
        cases hw'
        exact ⟨x, hx⟩
      · exact hwait
    obtain ⟨x, hx⟩ := hwait
    rw [hx] at hu
    obtain ⟨hpc, hmem⟩ := exec_ldVxK_latched hu hkl
    refine ⟨w, x, ?_, hx⟩
    rw [← hw]
    have hback : (countStep u).pc = s.pc := by rw [countStep_pc, hpc, State.setPc_pc, BitVec.add_sub_cancel]
    exact fetchWord_congr hback (by rw [countStep_mem, hmem, State.setPc_mem])

end Sys2Proof.Machine
end

section
/-! PROOFS. The state nothing observes: ST, which no instruction reads (10_state.md R27), and the stack entries at index SP
and above, which no pop reaches (R25; log 16). One relation covers both: no event tells related states apart, and each
event leads to related states again. -/

namespace Sys2Proof.Machine

/-- The second state is the first but for ST and for stack entries at index SP and above. `SameSt` and `SameStk` say
which of the two is to agree altogether. -/
inductive Alike (SameSt SameStk : Prop) (s : State) : State → Prop
  | intro (b : Byte) (stk : Vector Addr 16) (valid : ∀ j : Fin 16, j.val < s.sp.val → stk[j.val] = s.stk[j.val])
      (hst : SameSt → b = s.st) (hstk : SameStk → stk = s.stk) : Alike SameSt SameStk s { s with st := b, stk := stk }

/-- Two runs stop alike, or reach states that are alike. -/
def AlikeResults (SameSt SameStk : Prop) (r r' : Result) : Prop :=
  (∃ t t', r = .next t ∧ r' = .next t' ∧ Alike SameSt SameStk t t') ∨ ∃ f, r = .fault f ∧ r' = .fault f

variable {SameSt SameStk : Prop} {s s' t : State}

theorem Alike.fault_eq (h : Alike SameSt SameStk s s') : s'.fault = s.fault := by cases h; rfl
theorem Alike.sc_eq (h : Alike SameSt SameStk s s') : s'.sc = s.sc := by cases h; rfl
theorem Alike.ipt_eq (h : Alike SameSt SameStk s s') : s'.ipt = s.ipt := by cases h; rfl
theorem Alike.pc_eq (h : Alike SameSt SameStk s s') : s'.pc = s.pc := by cases h; rfl
theorem Alike.mem_eq (h : Alike SameSt SameStk s s') : s'.mem = s.mem := by cases h; rfl

theorem Alike.sp_eq (h : Alike SameSt SameStk s s') : s'.sp = s.sp := by cases h; rfl

theorem Alike.top_eq (h : Alike SameSt SameStk s s') (hpos : 0 < s.sp.val) :
    s'.stk[s'.sp.val - 1]'(by omega) = s.stk[s.sp.val - 1]'(by omega) := by
  obtain ⟨b, stk, valid, -, -⟩ := h
  exact valid ⟨s.sp.val - 1, by omega⟩ (Nat.sub_one_lt_of_lt hpos)

theorem Alike.setPc (h : Alike SameSt SameStk s s') (a : Addr) : Alike SameSt SameStk (s.setPc a) (s'.setPc a) := by
  obtain ⟨b, stk, valid, hst, hstk⟩ := h
  exact .intro b stk valid hst hstk

theorem Alike.setFault (h : Alike SameSt SameStk s s') (f : FaultCause) :
    Alike SameSt SameStk (s.setFault f) (s'.setFault f) := by
  obtain ⟨b, stk, valid, hst, hstk⟩ := h
  exact .intro b stk valid hst hstk

theorem Alike.skipIf (h : Alike SameSt SameStk s s') (c : Bool) :
    Alike SameSt SameStk (skipIf c s) (skipIf c s') := by
  obtain ⟨b, stk, valid, hst, hstk⟩ := h
  rw [skipIf_eq, skipIf_eq]
  exact .intro b stk valid hst hstk

theorem Alike.countStep (h : Alike SameSt SameStk s s') : Alike SameSt SameStk (countStep s) (countStep s') := by
  obtain ⟨b, stk, valid, hst, hstk⟩ := h
  rw [countStep_eq, countStep_eq]
  exact .intro b stk valid hst hstk

theorem Alike.tick (h : Alike SameSt SameStk s s') : Alike SameSt SameStk (tick s) (tick s') := by
  obtain ⟨b, stk, valid, hst, hstk⟩ := h
  exact .intro (timerTick b) stk valid (fun hp => congrArg timerTick (hst hp)) hstk

/-- A push onto related stacks gives related stacks: the new entry is the same, and the ones below it agreed. -/
theorem Alike.push (h : Alike SameSt SameStk s s') (value : Addr) (hsp : s.sp.val < 16) (hsp' : s'.sp.val < 16) :
    Alike SameSt SameStk (s.setStack (s.stk.set s.sp.val value hsp) ⟨s.sp.val + 1, Nat.succ_lt_succ hsp⟩)
      (s'.setStack (s'.stk.set s'.sp.val value hsp') ⟨s'.sp.val + 1, Nat.succ_lt_succ hsp'⟩) := by
  obtain ⟨b, stk, valid, hst, hstk⟩ := h
  refine .intro b (stk.set s.sp.val value hsp) (fun j hj => ?_) hst (fun hq => by rw [hstk hq]; rfl)
  simp only [State.setStack_sp] at hj
  simp only [State.setStack_stk, Vector.getElem_set]
  split
  · rfl
  · exact valid j (by omega)

/-- A pop lowers SP, so what was valid below it still is. -/
theorem Alike.pop (h : Alike SameSt SameStk s s') (hsp : s.sp.val - 1 < 17) (hsp' : s'.sp.val - 1 < 17) :
    Alike SameSt SameStk (s.setStack s.stk ⟨s.sp.val - 1, hsp⟩) (s'.setStack s'.stk ⟨s'.sp.val - 1, hsp'⟩) := by
  obtain ⟨b, stk, valid, hst, hstk⟩ := h
  refine .intro b stk (fun j hj => valid j ?_) hst hstk
  simp only [State.setStack_sp] at hj
  omega

/-- No instruction tells alike states apart: FX18 makes ST equal, a return reads an entry below SP, and every other
instruction reads neither ST nor the stack. -/
theorem exec_alike {i : Instr} (h : Alike SameSt SameStk s s') (ht : exec i s = .next t) :
    ∃ t', exec i s' = .next t' ∧ Alike SameSt SameStk t t' := by
  cases i with
  | call nnn =>
    rcases exec_call_cases ht with ⟨hfull, rfl⟩ | ⟨hroom, rfl⟩
    · exact ⟨_, exec_call_full (by rwa [h.sp_eq]), h.setFault _⟩
    · have hroom' : s'.sp.val < 16 := by rwa [h.sp_eq]
      refine ⟨_, exec_call_space hroom', ?_⟩
      rw [h.pc_eq]
      exact (h.push s.pc hroom hroom').setPc _
  | ret =>
    rcases exec_ret_cases ht with ⟨hempty, rfl⟩ | ⟨hpos, rfl⟩
    · exact ⟨_, exec_ret_empty (by rwa [h.sp_eq]), h.setFault _⟩
    · refine ⟨_, exec_ret_top (by rwa [h.sp_eq]), ?_⟩
      rw [h.top_eq hpos]
      exact (h.pop _ _).setPc _
  | seImm | sneImm | seReg | sneReg | skp | sknp =>
    obtain ⟨b, stk, valid, hst, hstk⟩ := h
    cases ht
    exact ⟨_, rfl, (Alike.intro b stk valid hst hstk).skipIf _⟩
  | drw | ldBVx | ldMemVx | ldVxMem =>
    obtain ⟨b, stk, valid, hst, hstk⟩ := h
    rcases exec_span_cases rfl ht with ⟨hout, rfl⟩ | ⟨hin, rfl⟩
    · exact ⟨_, withSpan_out hout, .intro b stk valid hst hstk⟩
    · exact ⟨_, withSpan_in hin, .intro b stk valid hst hstk⟩
  | ldVxK =>
    obtain ⟨b, stk, valid, hst, hstk⟩ := h
    rcases exec_ldVxK_cases ht with ⟨hk, rfl⟩ | ⟨k, hk, hp, rfl⟩ | ⟨k, hk, hp, rfl⟩
    · exact ⟨_, exec_ldVxK_unlatched hk, .intro b stk valid hst hstk⟩
    · exact ⟨_, exec_ldVxK_held hk hp, .intro b stk valid hst hstk⟩
    · exact ⟨_, exec_ldVxK_released hk hp, .intro b stk valid hst hstk⟩
  | ldStVx x =>
    obtain ⟨b, stk, valid, hst, hstk⟩ := h
    cases ht
    exact ⟨_, rfl, .intro (s.reg x) stk valid (fun _ => rfl) hstk⟩
  | _ =>
    obtain ⟨b, stk, valid, hst, hstk⟩ := h
    cases ht
    exact ⟨_, rfl, .intro b stk valid hst hstk⟩

/-- An enabled step on a fetched word, forwards: the advance, the instruction, the count (R120 to R124). -/
theorem step_run {w : Word} (hf : s.fault = none) (hd : s.sc < s.ipt) (hw : fetchWord s = some w)
    (ht : exec (decodeWord w) (s.setPc (s.pc + 2)) = .next t) : step s = .next (countStep t) := by
  rw [step_execute hf hd, executorStep_run hw, runWord, advancePc_eq, ht]

/-- One event from alike states: the same event in both, and alike states after it. -/
theorem step_alike (h : Alike SameSt SameStk s s') : AlikeResults SameSt SameStk (step s) (step s') := by
  cases hf : s.fault with
  | some f => exact .inr ⟨_, step_halted hf, step_halted (h.fault_eq.trans hf)⟩
  | none =>
    have hf' := h.fault_eq.trans hf
    left
    by_cases hd : s.ipt ≤ s.sc
    · exact ⟨_, _, step_tick hf hd, step_tick hf' (by rwa [h.ipt_eq, h.sc_eq]), h.tick⟩
    · have hd : s.sc < s.ipt := by omega
      have hd' : s'.sc < s'.ipt := by rwa [h.ipt_eq, h.sc_eq]
      by_cases hp : 0xFFE < s.pc.toNat
      · have hp' : 0xFFE < s'.pc.toNat := by rwa [h.pc_eq]
        exact ⟨_, _, (step_execute hf hd).trans (executorStep_fetch_fault hp),
          (step_execute hf' hd').trans (executorStep_fetch_fault hp'), h.setFault _⟩
      · have hw := fetchWord_some (s := s) (by omega)
        obtain ⟨u, hu⟩ := exec_total (decodeWord _) (s.setPc (s.pc + 2))
        obtain ⟨u', hu', halike⟩ := exec_alike (h.setPc (s.pc + 2)) hu
        rw [← h.pc_eq] at hu'
        exact ⟨_, _, step_run hf hd hw hu, step_run hf' hd' ((fetchWord_congr h.pc_eq h.mem_eq).trans hw) hu',
          halike.countStep⟩

/-- Runs of any length from alike states, by induction on the number of events. -/
theorem run_alike (k : Nat) (h : Alike SameSt SameStk s s') :
    AlikeResults SameSt SameStk (core.run k s) (core.run k s') := by
  induction k generalizing s s' with
  | zero => exact .inl ⟨s, s', rfl, rfl, h⟩
  | succ k ih =>
    rcases step_alike h with ⟨t, t', ht, ht', halike⟩ | ⟨f, hf, hf'⟩
    · rw [run_next ht, run_next ht']; exact ih halike
    · rw [run_fault hf, run_fault hf']; exact .inr ⟨f, rfl, rfl⟩

/-- Settles O45: states that differ in ST alone are alike with equal stacks. -/
theorem soundTimerInfluencesNothing : Obligations.SoundTimerInfluencesNothing := by
  unfold Obligations.SoundTimerInfluencesNothing
  intro k s b
  have h : Alike False True s { s with st := b } := .intro b s.stk (fun _ _ => rfl) False.elim (fun _ => rfl)
  rcases run_alike k h with ⟨t, t', ht, ht', b', stk', -, -, hstk⟩ | hfault
  · cases hstk trivial
    exact .inl ⟨t, _, ht, ht', rfl⟩
  · exact .inr hfault

/-- Settles O46: states that agree but for popped entries are alike with equal ST. -/
theorem poppedEntriesAreUnobservable : Obligations.PoppedEntriesAreUnobservable := by
  unfold Obligations.PoppedEntriesAreUnobservable
  intro k s stk valid
  have h : Alike True False s { s with stk := stk } := .intro s.st stk valid (fun _ => rfl) False.elim
  rcases run_alike k h with ⟨t, t', ht, ht', b', stk', valid', hst, -⟩ | hfault
  · cases hst trivial
    exact .inl ⟨t, _, ht, ht', rfl, valid'⟩
  · exact .inr hfault

end Sys2Proof.Machine
end

section
/-! PROOFS. The canonical form of memory is one list per memory (10_state.md R31, 20_memory.md R60). -/

namespace Sys2Proof.Machine

/-- A first cell that lies below every cell of another canonical memory shows when read: it holds no default. -/
theorem Memory.head_shows {m : Memory} {lo c : Nat} {b : Byte} (hb : b ≠ Memory.unlisted c)
    (hm : Memory.wfFrom lo m = true) (hc : c < lo) : b ≠ m.read c := by
  rwa [Memory.read_below hm hc]

theorem Memory.read_head (c : Nat) (b : Byte) (m : Memory) : Memory.read ((c, b) :: m) c = b := by
  rw [Memory.read, if_pos rfl]

/-- Canonical memories whose first cells stand at the same address have tails that read alike: up to that address both
tails are unlisted, above it the memories read as their tails. -/
theorem Memory.tails_read_alike {m m' : Memory} {c : Nat} {b b' : Byte} (hm : Memory.wfFrom (c + 1) m = true)
    (hm' : Memory.wfFrom (c + 1) m' = true)
    (h : ∀ a : Nat, a ≤ 0xFFF → Memory.read ((c, b) :: m) a = Memory.read ((c, b') :: m') a) :
    ∀ a : Nat, a ≤ 0xFFF → m.read a = m'.read a := by
  intro a ha
  by_cases hac : a < c + 1
  · rw [Memory.read_below hm hac, Memory.read_below hm' hac]
  · have := h a ha
    rwa [Memory.read, Memory.read, if_neg (by omega), if_neg (by omega)] at this

theorem Memory.ext_of_wfFrom {m m' : Memory} {lo : Nat} (hm : Memory.wfFrom lo m = true)
    (hm' : Memory.wfFrom lo m' = true) (h : ∀ a : Nat, a ≤ 0xFFF → m.read a = m'.read a) : m = m' := by
  induction m generalizing lo m' with
  | nil =>
    cases m' with
    | nil => rfl
    | cons cell' rest' =>
      obtain ⟨c', b'⟩ := cell'
      obtain ⟨-, hc', hb', -⟩ := Memory.wfFrom_cons.mp hm'
      exact absurd ((h c' hc').trans (Memory.read_head c' b' rest')).symm hb'
  | cons cell rest ih =>
    obtain ⟨c, b⟩ := cell
    obtain ⟨-, hc, hb, hrest⟩ := Memory.wfFrom_cons.mp hm
    have hread := h c hc
    rw [Memory.read_head] at hread
    cases m' with
    | nil => exact absurd hread hb
    | cons cell' rest' =>
      obtain ⟨c', b'⟩ := cell'
      obtain ⟨-, hc', hb', hrest'⟩ := Memory.wfFrom_cons.mp hm'
      have hread' := h c' hc'
      rw [Memory.read_head] at hread'
      rcases Nat.lt_trichotomy c c' with hlt | rfl | hgt
      · have hfrom : Memory.wfFrom c' ((c', b') :: rest') = true := Memory.wfFrom_cons.mpr ⟨le_rfl, hc', hb', hrest'⟩
        exact absurd hread (Memory.head_shows hb hfrom hlt)
      · rw [Memory.read_head] at hread
        rw [hread, ih hrest hrest' (Memory.tails_read_alike hrest hrest' h)]
      · have hfrom : Memory.wfFrom c ((c, b) :: rest) = true := Memory.wfFrom_cons.mpr ⟨le_rfl, hc, hb, hrest⟩
        exact absurd hread'.symm (Memory.head_shows hb' hfrom hgt)

/-- Settles O31, by induction on the two lists of cells. -/
theorem memoriesThatReadAlikeAreEqual : Obligations.MemoriesThatReadAlikeAreEqual :=
  fun _ _ hm hm' h => Memory.ext_of_wfFrom hm hm' h

end Sys2Proof.Machine
end

section
/-! PROOFS. The outputs of 10_state.md R36. -/

namespace Sys2Proof.Machine

theorem fbOut_eq_flatten (s : State) : fbOut s = s.fb.flatten.toList := by
  rw [Vector.flatten, Vector.toList_mk, Array.toList_flatten, Array.toList_map, List.map_map]
  rfl

/-- Row-major order (decision D21, log 24). -/
theorem fbOut_pixel (s : State) (cy : Fin 32) (cx : Fin 64) :
    (fbOut s).getD (64 * cy.val + cx.val) false = s.fb[cy.val][cx.val] := by
  have hlt : 64 * cy.val + cx.val < (fbOut s).length := by rw [fbOut_eq_flatten, Vector.length_toList]; omega
  have hrow : (64 * cy.val + cx.val) / 64 = cy.val := by omega
  have hcol : (64 * cy.val + cx.val) % 64 = cx.val := by omega
  rw [List.getD_eq_getElem _ _ hlt]
  simp only [fbOut_eq_flatten, Vector.getElem_toList, Vector.getElem_flatten, hrow, hcol]

theorem faultNumber_injective : Function.Injective faultNumber := by
  intro f g
  cases f <;> cases g <;> simp [faultNumber]

theorem faultNumber_pos (f : FaultCause) : 0 < faultNumber f := by
  cases f <;> decide

theorem faultCode_eq_zero_iff (s : State) : faultCode s = 0 ↔ s.fault = none := by
  rw [faultCode]
  cases s.fault with
  | none => simp
  | some f => simpa using (faultNumber_pos f).ne'

/-- The code of a fault names it (R32; decision D4). -/
theorem fault_eq_some_iff (s : State) (f : FaultCause) : s.fault = some f ↔ faultCode s = faultNumber f := by
  rw [faultCode]
  cases s.fault with
  | none => simpa using (faultNumber_pos f).ne
  | some g => simpa using faultNumber_injective.eq_iff.symm

/-- Settles O57: the pixel order is that of the flattened rows, and the codes of the faults are distinct and not 0. -/
theorem outputsShowTheState : Obligations.OutputsShowTheState := by
  unfold Obligations.OutputsShowTheState
  intro s
  refine ⟨?_, fbOut_pixel s, decide_eq_true_iff, Option.isSome_iff_ne_none, ?_, fault_eq_some_iff s _,
    fault_eq_some_iff s _, fault_eq_some_iff s _, fault_eq_some_iff s _⟩
  · rw [fbOut_eq_flatten, Vector.length_toList]
  · rw [faultCode_eq_zero_iff, halted, Option.isSome_eq_false_iff, Option.isNone_iff_eq_none]

end Sys2Proof.Machine
end

section
/-! PROOFS. The decoder on the encoder's words: the fields of a packed word are the operands it was packed from, so each
canonical word decodes to the instruction it encodes, and an unknown word to itself (30_encoding.md R91, R94, R96). -/

namespace Sys2Proof

section PackedFields

variable {op : Nat} (h : op < 16) (x y n : Fin 16) (nn : Byte) (nnn : BitVec 12)

include h

@[simp] theorem opField_packXYN : (opField (packXYN op x y n)).toNat = op := by
  rw [opField_toNat, packXYN_toNat h]; omega

@[simp] theorem xField_packXYN : xField (packXYN op x y n) = x := by
  rw [Fin.ext_iff, xField_val, packXYN_toNat h]; omega

@[simp] theorem yField_packXYN : yField (packXYN op x y n) = y := by
  rw [Fin.ext_iff, yField_val, packXYN_toNat h]; omega

@[simp] theorem nField_packXYN : nField (packXYN op x y n) = n := by
  rw [Fin.ext_iff, nField_val, packXYN_toNat h]; omega

@[simp] theorem opField_packXNN : (opField (packXNN op x nn)).toNat = op := by
  have := nn.isLt
  rw [opField_toNat, packXNN_toNat h]; omega

@[simp] theorem xField_packXNN : xField (packXNN op x nn) = x := by
  have := nn.isLt
  rw [Fin.ext_iff, xField_val, packXNN_toNat h]; omega

@[simp] theorem nnField_packXNN : nnField (packXNN op x nn) = nn := by
  have := nn.isLt
  apply BitVec.eq_of_toNat_eq
  rw [nnField_toNat, packXNN_toNat h]; omega

@[simp] theorem opField_packNNN : (opField (packNNN op nnn)).toNat = op := by
  have := nnn.isLt
  rw [opField_toNat, packNNN_toNat h]; omega

@[simp] theorem nnnField_packNNN : nnnField (packNNN op nnn) = nnn := by
  have := nnn.isLt
  apply BitVec.eq_of_toNat_eq
  rw [nnnField_toNat, packNNN_toNat h]; omega

end PackedFields

theorem nnField_eq_iff (w : Word) (nn : Byte) : nnField w = nn ↔ w.toNat % 256 = nn.toNat := by
  rw [← BitVec.toNat_inj, nnField_toNat]

section UnknownWords

variable {w : Word}

theorem decodeWord_unknownInGroup0 (h : unknownInGroup0 w = true) : decodeWord w = .nopUnknown w := by
  simp only [unknownInGroup0, Bool.and_eq_true, Bool.not_eq_true', Bool.or_eq_false_iff, beq_iff_eq,
    beq_eq_false_iff_ne] at h
  obtain ⟨hop, hE0, hEE⟩ := h
  simp [decodeWord, opField_toNat, hop, decodeGroup0, nnField_eq_iff, hE0, hEE]

theorem decodeWord_unknownInGroup8 (h : unknownInGroup8 w = true) : decodeWord w = .nopUnknown w := by
  simp only [unknownInGroup8, Bool.and_eq_true, beq_iff_eq, List.contains_iff_mem, List.mem_cons, List.not_mem_nil,
    or_false] at h
  obtain ⟨hop, hn⟩ := h
  rcases hn with hn | hn | hn | hn | hn | hn | hn
  all_goals simp [decodeWord, opField_toNat, hop, decodeGroup8, nField_val, hn]

theorem decodeWord_unknownInGroupE (h : unknownInGroupE w = true) : decodeWord w = .nopUnknown w := by
  simp only [unknownInGroupE, Bool.and_eq_true, Bool.not_eq_true', Bool.or_eq_false_iff, beq_iff_eq,
    beq_eq_false_iff_ne] at h
  obtain ⟨hop, h9E, hA1⟩ := h
  simp [decodeWord, opField_toNat, hop, decodeGroupE, nnField_eq_iff, h9E, hA1]

theorem decodeWord_unknownInGroupF (h : unknownInGroupF w = true) : decodeWord w = .nopUnknown w := by
  simp only [unknownInGroupF, Bool.and_eq_true, Bool.not_eq_true', beq_iff_eq, ← Bool.not_eq_true,
    List.contains_iff_mem, List.mem_cons, List.not_mem_nil, or_false, not_or] at h
  obtain ⟨hop, hnn⟩ := h
  simp [decodeWord, opField_toNat, hop, decodeGroupF, nnField_eq_iff, hnn]

/-- Each of the four sets of R96 is left over by the rows of its group. -/
theorem decodeWord_unknown (h : isUnknownWord w = true) : decodeWord w = .nopUnknown w := by
  simp only [isUnknownWord, Bool.or_eq_true] at h
  obtain ((h | h) | h) | h := h
  · exact decodeWord_unknownInGroup0 h
  · exact decodeWord_unknownInGroup8 h
  · exact decodeWord_unknownInGroupE h
  · exact decodeWord_unknownInGroupF h

end UnknownWords

/-- By the group of the instruction's row (R94): the op of its packed word leads to the row or to its group, the selector
of the group, if any, to the row, and the remaining fields are the operands. -/
theorem decodeWord_encode {i : Instr} (h : i.wellFormed = true) : decodeWord (encode i) = i := by
  cases i with
  | cls | ret => simp [encode, decodeWord, decodeGroup0]
  | ldReg | orReg | andReg | xorReg | addReg | sub | shr | subn | shl => simp [encode, decodeWord, decodeGroup8]
  | skp | sknp => simp [encode, decodeWord, decodeGroupE]
  | ldVxDt | ldVxK | ldDtVx | ldStVx | addIVx | ldFVx | ldBVx | ldMemVx | ldVxMem =>
    simp [encode, decodeWord, decodeGroupF]
  | jp | call | seImm | sneImm | seReg | ldImm | addImm | sneReg | ldI | jpV0 | rnd | drw => simp [encode, decodeWord]
  | nopUnknown w => exact decodeWord_unknown h

/-- The bytes of a word, high byte first, give the word back (R64). -/
theorem wordOfBytes_extract (w : Word) : wordOfBytes (w.extractLsb' 8 8) (w.extractLsb' 0 8) = w := by
  have := w.isLt
  apply BitVec.eq_of_toNat_eq
  rw [wordOfBytes_toNat, BitVec.extractLsb'_toNat, BitVec.extractLsb'_toNat, Nat.shiftRight_eq_div_pow, Nat.shiftRight_zero]
  omega

theorem decode_bytesOfWord (w : Word) (rest : List Byte) : decode (bytesOfWord w ++ rest) = .ok (decodeWord w, rest) := by
  rw [bytesOfWord, List.cons_append, List.cons_append, List.nil_append, decode, wordOfBytes_extract]

/-- Settles O1: the two bytes give the encoder's word back, and that word decodes to its instruction. -/
theorem decodeOfEncodeIsIdentity : Obligations.DecodeOfEncodeIsIdentity := by
  unfold Obligations.DecodeOfEncodeIsIdentity
  intro i rest h
  rw [decode_bytesOfWord, decodeWord_encode h]

end Sys2Proof
end

section
/-! PROOFS. What an instruction fetch reads: the two bytes at PC, high byte first (20_memory.md R64), the word placed by
`withFetchWord` (log 17), and the bytes a store has just written (R70, R71). -/

namespace Sys2Proof.Machine

variable {s u : State}

theorem fields_wordOfBytes (hi lo : Byte) :
    (opField (wordOfBytes hi lo)).toNat = hi.toNat / 16 ∧ (xField (wordOfBytes hi lo)).val = hi.toNat % 16 ∧
      (yField (wordOfBytes hi lo)).val = lo.toNat / 16 ∧ (nField (wordOfBytes hi lo)).val = lo.toNat % 16 ∧
      nnField (wordOfBytes hi lo) = lo := by
  have := lo.isLt
  rw [opField_toNat, xField_val, yField_val, nField_val, nnField_eq_iff, wordOfBytes_toNat]
  omega

/-- Settles O7: the fetched word is that of the two bytes, whose nibbles are its fields. -/
theorem fetchIsBigEndian : Obligations.FetchIsBigEndian := by
  unfold Obligations.FetchIsBigEndian
  intro s hpc
  exact ⟨_, fetchWord_some hpc, wordOfBytes_toNat _ _, fields_wordOfBytes _ _⟩

/-! The word placed by `withFetchWord`. -/

theorem withFetchWord_pc_le (s : State) (nbits w : Nat) : (s.withFetchWord nbits w).pc.toNat ≤ 0xFFE := by
  simp only [State.withFetchWord]
  split
  · decide
  · next h => simp only [Config.memTop] at h; omega

theorem withFetchWord_mem (s : State) (nbits w : Nat) : (s.withFetchWord nbits w).mem =
    s.mem.writeBytes (s.withFetchWord nbits w).pc.toNat (bytesOfWord (tableWord nbits w)) := rfl

theorem withFetchWord_running (s : State) (nbits w : Nat) : (s.withFetchWord nbits w).fault = none := rfl

/-- A step, not a tick, is next. -/
theorem withFetchWord_budget_open (s : State) (nbits w : Nat) :
    (s.withFetchWord nbits w).sc < (s.withFetchWord nbits w).ipt := by
  simp only [State.withFetchWord]
  split <;> omega

theorem fetchWord_withFetchWord (hs : MemoryCanonical s) (nbits w : Nat) :
    fetchWord (s.withFetchWord nbits w) = some (tableWord nbits w) := by
  have hpc := withFetchWord_pc_le s nbits w
  have hlen : (bytesOfWord (tableWord nbits w)).length = 2 := rfl
  have hspan : (s.withFetchWord nbits w).pc.toNat + (bytesOfWord (tableWord nbits w)).length ≤ 0x1000 := by omega
  rw [fetchWord_some hpc, withFetchWord_mem, Memory.read_writeBytes hs hspan, Memory.read_writeBytes hs hspan,
    if_pos (by omega), if_pos (by omega), Nat.sub_self, Nat.add_sub_cancel_left]
  exact congrArg some (wordOfBytes_extract _)

theorem decodeTableWord_eq (nbits w : Nat) : decodeTableWord nbits w = some (decodeWord (tableWord nbits w)) := by
  rw [decodeTableWord, ← List.append_nil (bytesOfWord _), decode_bytesOfWord]

theorem tableWord_of_lt {w : Nat} (h : w < 0x10000) : tableWord 16 w = BitVec.ofNat 16 w := by
  rw [tableWord, Nat.mod_eq_of_lt (show w < 2 ^ 16 from h)]

/-- Settles O12: the word stands where PC points, no fault is recorded, and the budget is open. -/
theorem placedWordRunsNext : Obligations.PlacedWordRunsNext := by
  unfold Obligations.PlacedWordRunsNext
  intro s w hw hs
  rw [← tableWord_of_lt hw]
  have hfetch := fetchWord_withFetchWord hs 16 w
  refine ⟨hfetch, decodeTableWord_eq 16 w, ?_⟩
  rw [step_execute (withFetchWord_running s 16 w) (withFetchWord_budget_open s 16 w), executorStep_run hfetch]

/-! The word fetched after a store. -/

section AfterStore

variable {bytes : List Byte} {stored : Nat → Nat} (hs : MemoryCanonical s)
  (hspan : s.i.toNat + bytes.length ≤ 0x1000) (hstored : ∀ k < bytes.length, (bytes.getD k 0).toNat = stored k)

include hs hspan hstored

theorem read_storeAtI (a : Nat) :
    ((storeAtI bytes s).mem.read a).toNat = byteAfterStore s.mem s.i.toNat bytes.length stored a := by
  rw [storeAtI, State.setMem_mem, Memory.read_writeBytes hs hspan, byteAfterStore]
  split
  · exact hstored _ (by omega)
  · rfl

/-- What a store wrote is what a fetch reads, in any later state with that memory (R71). -/
theorem fetchWord_after_store (hmem : u.mem = (storeAtI bytes s).mem) (hpc : u.pc.toNat ≤ 0xFFE) :
    ∃ w, fetchWord u = some w ∧ w.toNat = wordAfterStore s.mem s.i.toNat bytes.length stored u.pc.toNat := by
  refine ⟨_, fetchWord_some hpc, ?_⟩
  rw [wordOfBytes_toNat, hmem, read_storeAtI hs hspan hstored, read_storeAtI hs hspan hstored, wordAfterStore]

end AfterStore

theorem spanOutOfRange_false {base len : Nat} (h : base + len ≤ 0x1000) : spanOutOfRange base len = false := by
  rw [← Bool.not_eq_true, spanOutOfRange_iff]; omega

theorem bcdDigits_toNat (b : Byte) : ∀ k < 3, ((bcdDigits b).getD k 0).toNat =
    if k = 0 then b.toNat / 100 else if k = 1 then b.toNat / 10 % 10 else b.toNat % 10 := by
  have := b.isLt
  intro k hk
  interval_cases k <;> simp [bcdDigits] <;> omega

theorem regsUpTo_toNat (s : State) (x : RegIdx) {k : Nat} (hk : k < x.val + 1) :
    ((s.regsUpTo x).getD k 0).toNat = (s.reg (Fin.ofNat 16 k)).toNat := by
  have hx := x.isLt
  rw [State.regsUpTo_getD s x (by omega)]
  congr 2
  exact Fin.ext (Nat.mod_eq_of_lt (by omega)).symm

/-- Settles O30: in range both stores end in memory as `storeAtI` leaves it, and a fetch reads that memory. -/
theorem storesAreSeenByFetch : Obligations.StoresAreSeenByFetch := by
  unfold Obligations.StoresAreSeenByFetch
  intro x s hs
  constructor
  · intro hi
    have hspan : s.i.toNat + (bcdDigits (s.reg x)).length ≤ 0x1000 := by rw [bcdDigits_length]; omega
    exact ⟨_, (exec_ldBVx x s).trans (withSpan_in (spanOutOfRange_false hspan)), fun u =>
      fetchWord_after_store hs hspan (bcdDigits_toNat (s.reg x))⟩
  · intro hi
    have hlen := State.regsUpTo_length s x
    have hspan : s.i.toNat + (s.regsUpTo x).length ≤ 0x1000 := by omega
    rw [← hlen]
    exact ⟨_, (exec_ldMemVx x s).trans (withSpan_in (spanOutOfRange_false (by omega))), fun u =>
      fetchWord_after_store hs hspan fun k hk => regsUpTo_toNat s x (by omega)⟩

end Sys2Proof.Machine
end

section
/-! PROOFS. Which fault each instruction raises (60_exceptions.md R250 to R257). -/

namespace Sys2Proof.Machine

/-- The answer of an instruction with the given fault condition: a raise that changes FAULT alone, or a completion that
leaves FAULT alone. -/
inductive FaultsAs (s : State) : Option FaultCause → Result → Prop
  | raised (f : FaultCause) : FaultsAs s (some f) (.next (s.setFault f))
  | completed {t : State} (h : t.fault = s.fault) : FaultsAs s none (.next t)

variable {s t : State}

theorem FaultsAs.exists_next {c : Option FaultCause} {r : Result} (h : FaultsAs s c r) :
    ∃ t : State, r = .next t ∧ (∀ f, c = some f → t = { s with fault := some f }) ∧ (c = none → t.fault = s.fault) := by
  cases h with
  | raised f => exact ⟨_, rfl, fun g hg => by cases hg; rfl, nofun⟩
  | completed h => exact ⟨_, rfl, nofun, fun _ => h⟩

/-- An instruction with a span raises MemRangeData exactly when its span leaves memory (R253). -/
theorem withSpan_faultsAs {len : Nat} {c : Prop} [Decidable c] (hc : c ↔ spanOutOfRange s.i.toNat len = true)
    (ht : t.fault = s.fault) :
    FaultsAs s (if c then some .memRangeData else none) (withSpan len s (.next t)) := by
  by_cases h : c
  · rw [if_pos h, withSpan_out (hc.mp h)]
    exact .raised _
  · rw [if_neg h, withSpan_in (eq_false_of_ne_true (mt hc.mpr h))]
    exact .completed ht

/-- The stack instructions fault at the two ends of SP, the span instructions outside memory, no other one at all. -/
theorem exec_faultsAs (i : Instr) (s : State) : FaultsAs s (faultCondition i s) (exec i s) := by
  cases i with
  | call nnn =>
    rw [faultCondition]
    by_cases h : s.sp.val = 16
    · rw [if_pos h, exec_call_full h]
      exact .raised _
    · rw [if_neg h, exec_call_space (by omega)]
      exact .completed rfl
  | ret =>
    rw [faultCondition]
    by_cases h : s.sp.val = 0
    · rw [if_pos h, exec_ret_empty h]
      exact .raised _
    · rw [if_neg h, exec_ret_top (by omega)]
      exact .completed rfl
  | drw x y n => exact withSpan_faultsAs (by rw [spanOutOfRange_iff]; omega) rfl
  | ldBVx | ldMemVx | ldVxMem => exact withSpan_faultsAs (by rw [spanOutOfRange_iff]; omega) rfl
  | ldVxK x =>
    obtain ⟨t, ht⟩ := exec_total (.ldVxK x) s
    rw [ht]
    obtain ⟨-, rfl⟩ | ⟨k, -, -, rfl⟩ | ⟨k, -, -, rfl⟩ := exec_ldVxK_cases ht <;> exact .completed rfl
  | seImm | sneImm | seReg | sneReg | skp | sknp => exact .completed (by rw [skipIf_eq])
  | _ => exact .completed rfl

/-- Settles O41, from the one lemma on what each instruction raises. -/
theorem instructionsFaultExactlyAsListed : Obligations.InstructionsFaultExactlyAsListed :=
  fun i s => (exec_faultsAs i s).exists_next

end Sys2Proof.Machine
end

section
/-! PROOFS. The encoder on the decoder's instructions: what a word decodes to is well formed, and its canonical word is
that word with an ignored nibble cleared (30_encoding.md R91, R94 to R96, R101; decision D10, log 13). -/

namespace Sys2Proof

/-- Settles O5: each field is a quotient and a remainder of the word's value. -/
theorem wordIsItsFields : Obligations.WordIsItsFields := by
  unfold Obligations.WordIsItsFields
  intro w
  rw [opField_toNat, xField_val, yField_val, nField_val, nnField_toNat, nnnField_toNat]
  omega

/-- Settles O6: the decoder run on each word. -/
theorem specWordsDecode : Obligations.SpecWordsDecode := by
  unfold Obligations.SpecWordsDecode
  decide

/-- The words of R96 as arithmetic on the word's value. -/
theorem isUnknownWord_iff (w : Word) : isUnknownWord w = true ↔
    (w.toNat / 4096 = 0x0 ∧ ¬(w.toNat % 256 = 0xE0 ∨ w.toNat % 256 = 0xEE)) ∨
    (w.toNat / 4096 = 0x8 ∧ (0x8 ≤ w.toNat % 16 ∧ w.toNat % 16 ≠ 0xE)) ∨
    (w.toNat / 4096 = 0xE ∧ ¬(w.toNat % 256 = 0x9E ∨ w.toNat % 256 = 0xA1)) ∨
    (w.toNat / 4096 = 0xF ∧ ¬(w.toNat % 256 = 0x07 ∨ w.toNat % 256 = 0x0A ∨ w.toNat % 256 = 0x15 ∨
      w.toNat % 256 = 0x18 ∨ w.toNat % 256 = 0x1E ∨ w.toNat % 256 = 0x29 ∨ w.toNat % 256 = 0x33 ∨
      w.toNat % 256 = 0x55 ∨ w.toNat % 256 = 0x65)) := by
  simp only [isUnknownWord, unknownInGroup0, unknownInGroup8, unknownInGroupE, unknownInGroupF, Bool.or_eq_true,
    Bool.and_eq_true, Bool.not_eq_true', ← Bool.not_eq_true, beq_iff_eq, List.contains_iff_mem, List.mem_cons,
    List.not_mem_nil, or_false]
  omega

/-- The instruction is well formed, and its canonical word has the value v. -/
def IsEncodedAs (i : Instr) (v : Nat) : Prop := i.wellFormed = true ∧ (encode i).toNat = v

/-- The value of a word with the nibble its row ignores cleared (R95, decision D10). -/
def canonicalValue (w : Word) : Nat :=
  if w.toNat / 0x1000 = 0x0 ∧ (w.toNat % 0x100 = 0xE0 ∨ w.toNat % 0x100 = 0xEE) then w.toNat % 0x100
  else if w.toNat / 0x1000 = 0x5 ∨ w.toNat / 0x1000 = 0x9 then w.toNat / 0x10 * 0x10
  else w.toNat

theorem canonicalValue_of_ignoring {w : Word} (h : (opField w).toNat = 0x5 ∨ (opField w).toNat = 0x9) :
    canonicalValue w = w.toNat / 16 * 16 := by
  rw [opField_toNat] at h
  rw [canonicalValue, if_neg (by omega), if_pos h]

theorem canonicalValue_of_full {w : Word} (h0 : (opField w).toNat ≠ 0x0)
    (h59 : ¬((opField w).toNat = 0x5 ∨ (opField w).toNat = 0x9)) : canonicalValue w = w.toNat := by
  rw [opField_toNat] at h0 h59
  rw [canonicalValue, if_neg (by omega), if_neg h59]

theorem canonicalValue_op (w : Word) : canonicalValue w / 4096 = w.toNat / 4096 := by
  rw [canonicalValue]
  split_ifs <;> omega

theorem canonicalValue_low_byte {w : Word} (h : ¬(w.toNat / 4096 = 0x5 ∨ w.toNat / 4096 = 0x9)) :
    canonicalValue w % 256 = w.toNat % 256 := by
  rw [canonicalValue, if_neg h]
  split_ifs <;> omega

/-! A word packed again from its own fields. -/

section Repacked

variable {w : Word} {op : Nat} (hop : (opField w).toNat = op)

include hop

theorem packXYN_fields_toNat (n : Fin 16) :
    (packXYN op (xField w) (yField w) n).toNat = w.toNat / 16 * 16 + n.val := by
  have := w.isLt
  rw [opField_toNat] at hop
  rw [packXYN_toNat (by omega), xField_val, yField_val]
  omega

theorem packXYN_selector_toNat {n : Fin 16} (hn : (nField w).val = n.val) :
    (packXYN op (xField w) (yField w) n).toNat = w.toNat := by
  rw [packXYN_fields_toNat hop, ← hn, nField_val]
  omega

theorem packXNN_fields_toNat {nn : Byte} (hnn : w.toNat % 256 = nn.toNat) :
    (packXNN op (xField w) nn).toNat = w.toNat := by
  have := w.isLt
  rw [opField_toNat] at hop
  rw [packXNN_toNat (by omega), xField_val]
  omega

theorem packNNN_fields_toNat : (packNNN op (nnnField w)).toNat = w.toNat := by
  have := w.isLt
  rw [opField_toNat] at hop
  rw [packNNN_toNat (by omega), nnnField_toNat]
  omega

end Repacked

section Groups

variable {w : Word}

theorem isEncodedAs_unknown (h : isUnknownWord w = true) : IsEncodedAs (.nopUnknown w) w.toNat := ⟨h, rfl⟩

theorem decodeGroup0_isEncodedAs (hop : (opField w).toNat = 0x0) :
    IsEncodedAs (decodeGroup0 w) (canonicalValue w) := by
  rw [opField_toNat] at hop
  simp only [decodeGroup0, nnField_eq_iff]
  split_ifs with hE0 hEE
  · rw [canonicalValue, if_pos ⟨hop, .inl hE0⟩, hE0]; exact ⟨rfl, rfl⟩
  · rw [canonicalValue, if_pos ⟨hop, .inr hEE⟩, hEE]; exact ⟨rfl, rfl⟩
  · rw [canonicalValue, if_neg (fun h => h.2.elim hE0 hEE), if_neg (by omega)]
    exact isEncodedAs_unknown ((isUnknownWord_iff w).mpr (.inl ⟨hop, not_or.mpr ⟨hE0, hEE⟩⟩))

theorem decodeGroup8_isEncodedAs (hop : (opField w).toNat = 0x8) : IsEncodedAs (decodeGroup8 w) w.toNat := by
  unfold decodeGroup8
  split
  case h_10 =>
    have hn := nField_val w
    rw [opField_toNat] at hop
    simp only [imp_false] at *
    exact isEncodedAs_unknown ((isUnknownWord_iff w).mpr (by omega))
  all_goals exact ⟨rfl, packXYN_selector_toNat hop ‹_›⟩

theorem decodeGroupE_isEncodedAs (hop : (opField w).toNat = 0xE) : IsEncodedAs (decodeGroupE w) w.toNat := by
  simp only [decodeGroupE, nnField_eq_iff, BitVec.reduceToNat]
  split_ifs with h9E hA1
  · exact ⟨rfl, packXNN_fields_toNat hop h9E⟩
  · exact ⟨rfl, packXNN_fields_toNat hop hA1⟩
  · rw [opField_toNat] at hop
    exact isEncodedAs_unknown ((isUnknownWord_iff w).mpr (by omega))

theorem decodeGroupF_isEncodedAs (hop : (opField w).toNat = 0xF) : IsEncodedAs (decodeGroupF w) w.toNat := by
  simp only [decodeGroupF, nnField_eq_iff, BitVec.reduceToNat]
  split_ifs
  case neg =>
    rw [opField_toNat] at hop
    exact isEncodedAs_unknown ((isUnknownWord_iff w).mpr (by omega))
  all_goals exact ⟨rfl, packXNN_fields_toNat hop ‹_›⟩

/-- By op, as the decoder dispatches: an arm without a selector packs the word's own fields again (R94).
In the last split `h_k` is the arm of op k - 1. -/
theorem decodeWord_isEncodedAs (w : Word) : IsEncodedAs (decodeWord w) (canonicalValue w) := by
  by_cases h0 : (opField w).toNat = 0x0
  · simp only [decodeWord, h0]
    exact decodeGroup0_isEncodedAs h0
  by_cases h59 : (opField w).toNat = 0x5 ∨ (opField w).toNat = 0x9
  · rw [canonicalValue_of_ignoring h59]
    obtain hop | hop := h59 <;> rw [decodeWord, hop] <;> exact ⟨rfl, packXYN_fields_toNat hop 0⟩
  rw [canonicalValue_of_full h0 h59]
  obtain ⟨h5, h9⟩ := not_or.mp h59
  unfold decodeWord
  split
  case h_1 | h_6 | h_10 => contradiction
  case h_17 =>
    have := (opField w).isLt
    simp only [imp_false] at *
    omega
  case h_9 hop => exact decodeGroup8_isEncodedAs hop
  case h_15 hop => exact decodeGroupE_isEncodedAs hop
  case h_16 hop => exact decodeGroupF_isEncodedAs hop
  case h_14 hop => exact ⟨rfl, packXYN_selector_toNat hop rfl⟩
  case h_2 hop | h_3 hop | h_11 hop | h_12 hop => exact ⟨rfl, packNNN_fields_toNat hop⟩
  case h_4 hop | h_5 hop | h_7 hop | h_8 hop | h_13 hop =>
    exact ⟨rfl, packXNN_fields_toNat hop (nnField_toNat w).symm⟩

end Groups

/-- Settles O4: the half of `decodeWord_isEncodedAs` about the instruction. -/
theorem decodingIsAlwaysWellFormed : Obligations.DecodingIsAlwaysWellFormed :=
  fun w => (decodeWord_isEncodedAs w).1

/-- Settles O2: the half of `decodeWord_isEncodedAs` about the canonical word. -/
theorem encodeOfDecodeIsCanonicalWord : Obligations.EncodeOfDecodeIsCanonicalWord :=
  fun w => (decodeWord_isEncodedAs w).2

end Sys2Proof
end

section
/-! PROOFS. The decoder against the opcode map (30_encoding.md R94, R96, R101): a word matches the same rows as its
canonical word, which matches the row of the instruction it encodes and no other. -/

namespace Sys2Proof

open Laws.EncodesItsRow (natMatch natMatch_op match_iff)

/-- The laws of `Laws.EncodesItsRow`, one for each constructor, together. -/
theorem Laws.EncodesItsRow.all (i : Instr) : Laws.EncodesItsRow.Statement i :=
  match i with
  | .cls => cls
  | .ret => ret
  | .jp nnn => jp nnn
  | .call nnn => call nnn
  | .seImm x nn => seImm x nn
  | .sneImm x nn => sneImm x nn
  | .seReg x y => seReg x y
  | .ldImm x nn => ldImm x nn
  | .addImm x nn => addImm x nn
  | .ldReg x y => ldReg x y
  | .orReg x y => orReg x y
  | .andReg x y => andReg x y
  | .xorReg x y => xorReg x y
  | .addReg x y => addReg x y
  | .sub x y => sub x y
  | .shr x y => shr x y
  | .subn x y => subn x y
  | .shl x y => shl x y
  | .sneReg x y => sneReg x y
  | .ldI nnn => ldI nnn
  | .jpV0 nnn => jpV0 nnn
  | .rnd x nn => rnd x nn
  | .drw x y n => drw x y n
  | .skp x => skp x
  | .sknp x => sknp x
  | .ldVxDt x => ldVxDt x
  | .ldVxK x => ldVxK x
  | .ldDtVx x => ldDtVx x
  | .ldStVx x => ldStVx x
  | .addIVx x => addIVx x
  | .ldFVx x => ldFVx x
  | .ldBVx x => ldBVx x
  | .ldMemVx x => ldMemVx x
  | .ldVxMem x => ldVxMem x
  | .nopUnknown w => nopUnknown w

/-- The rows of the groups whose n nibble is ignored test op alone (R94, R95). -/
theorem opcodeMap_mask_of_ignoring : ∀ row ∈ opcodeMap,
    row.1.toNat / 4096 = 0x5 ∨ row.1.toNat / 4096 = 0x9 → row.2.1 = 0xF000#16 := by decide

theorem opcodeMap_mnemonic_inj {row row' : Word × Word × String} (h : row ∈ opcodeMap) (h' : row' ∈ opcodeMap)
    (hm : row.2.2 = row'.2.2) : row = row' :=
  List.inj_on_of_nodup_map (f := fun r => r.2.2) (by decide : (opcodeMap.map fun r => r.2.2).Nodup) h h' hm

theorem mnemonic_unknown_not_mem : ∀ row ∈ opcodeMap, row.2.2 ≠ "NOP_UNKNOWN" := by decide

/-- Every instruction but the unknown opcode has a row. -/
theorem exists_row_or_unknown (i : Instr) :
    (∃ row ∈ opcodeMap, row.2.2 = mnemonic i) ∨ ∃ w, i = .nopUnknown w := by
  cases i with
  | nopUnknown w => exact .inr ⟨w, rfl⟩
  | _ => exact .inl (by simp only [mnemonic]; decide)

/-- A row tests op, and in a group without an ignored low nibble at most the low byte beside it. -/
theorem natMatch_canonicalValue (w : Word) {row : Word × Word × String} (hrow : row ∈ opcodeMap) :
    natMatch (canonicalValue w) row ↔ natMatch w.toNat row := by
  have hop := canonicalValue_op w
  by_cases h59 : w.toNat / 4096 = 0x5 ∨ w.toNat / 4096 = 0x9
  · by_cases hsame : w.toNat / 4096 = row.1.toNat / 4096
    · rw [natMatch, natMatch, opcodeMap_mask_of_ignoring row hrow (hsame ▸ h59), if_pos rfl, if_pos rfl, hop]
    · exact iff_of_false (fun h => hsame (hop.symm.trans (natMatch_op h))) (fun h => hsame (natMatch_op h))
  · have hlow := canonicalValue_low_byte h59
    have hn : canonicalValue w % 16 = w.toNat % 16 := by omega
    rw [natMatch, natMatch, hop, hlow, hn]

/-- The decoder gives up on the words of R96 only: the word carried has the op and low byte of the word decoded. -/
theorem isUnknownWord_of_decodeWord {w u : Word} (h : decodeWord w = .nopUnknown u) : isUnknownWord w = true := by
  obtain ⟨hwf, hv⟩ := h ▸ decodeWord_isEncodedAs w
  rw [encode] at hv
  rw [Instr.wellFormed, isUnknownWord_iff] at hwf
  rw [isUnknownWord_iff]
  have hop := canonicalValue_op w
  by_cases h59 : w.toNat / 4096 = 0x5 ∨ w.toNat / 4096 = 0x9
  · omega
  · have hlow := canonicalValue_low_byte h59
    omega

/-- A word matches the row of the instruction it decodes to and no other. -/
theorem matches_row_iff (w : Word) {row : Word × Word × String} (hrow : row ∈ opcodeMap) :
    w &&& row.2.1 = row.1 ↔ row.2.2 = mnemonic (decodeWord w) := by
  obtain ⟨hwf, hv⟩ := decodeWord_isEncodedAs w
  rw [← Laws.EncodesItsRow.all _ hwf row hrow, match_iff _ row hrow, match_iff _ row hrow, hv,
    natMatch_canonicalValue w hrow]

theorem isUnknownWord_iff_no_row (w : Word) :
    isUnknownWord w = true ↔ ∀ row ∈ opcodeMap, w &&& row.2.1 ≠ row.1 := by
  constructor
  · intro h row hrow hm
    rw [matches_row_iff w hrow, decodeWord_unknown h] at hm
    exact mnemonic_unknown_not_mem row hrow hm
  · intro h
    obtain ⟨row, hrow, hm⟩ | ⟨u, hu⟩ := exists_row_or_unknown (decodeWord w)
    · exact absurd ((matches_row_iff w hrow).mpr hm) (h row hrow)
    · exact isUnknownWord_of_decodeWord hu

/-- Settles O3: the mnemonic of the decoded instruction names the row, and the mnemonics of the rows differ. -/
theorem everyWordDecodesAsItsTableRow : Obligations.EveryWordDecodesAsItsTableRow := by
  unfold Obligations.EveryWordDecodesAsItsTableRow
  refine ⟨fun w row h row' h' hm hm' => ?_, fun w row h hm => ?_, fun w h => ?_, isUnknownWord_iff_no_row⟩
  · rw [matches_row_iff w h] at hm
    rw [matches_row_iff w h'] at hm'
    exact opcodeMap_mnemonic_inj h h' (hm.trans hm'.symm)
  · exact ((matches_row_iff w h).mp hm).symm
  · exact decodeWord_unknown ((isUnknownWord_iff_no_row w).mpr h)

end Sys2Proof
end

section
/-! PROOFS. Every event has a next state while FAULT is None (40_fetch_decode_step.md R120, 60_exceptions.md R255,
R263). -/

namespace Sys2Proof.Machine

/-- An enabled step completes: out of memory it is the fetch fault, else the fetched instruction, which always answers. -/
theorem executorStep_total (s : State) : ∃ t, executorStep s = .next t := by
  rcases Nat.lt_or_ge 0xFFE s.pc.toNat with hpc | hpc
  · exact ⟨_, executorStep_fetch_fault hpc⟩
  · have hw := fetchWord_some hpc
    obtain ⟨t, ht⟩ := exec_total (decodeWord _) (advancePc s)
    exact ⟨countStep t, by rw [executorStep_run hw, runWord, ht]⟩

/-- Settles O9: a tick when the budget is used up, else a step. -/
theorem runningMachineAlwaysSteps : Obligations.RunningMachineAlwaysSteps := by
  unfold Obligations.RunningMachineAlwaysSteps
  intro s hs
  rcases Nat.lt_or_ge s.sc s.ipt with hd | hd
  · rw [step_execute hs hd]
    exact executorStep_total s
  · exact ⟨_, step_tick hs hd⟩

end Sys2Proof.Machine
end

section
/-! PROOFS. What one enabled step does, forwards: a fetch that fails, a fetched word that runs and is counted, and the
unknown word (40_fetch_decode_step.md R120 to R125). -/

namespace Sys2Proof.Machine

variable {s : State}

theorem countStep_running (h : s.fault = none) : countStep s = s.bumpSc := by rw [countStep, h]; rfl

theorem countStep_faulted (h : s.fault ≠ none) : countStep s = s := by
  rw [countStep, if_pos (Option.isSome_iff_ne_none.mpr h)]

/-- A word was fetched, so PC is at most 0xFFE (R121). -/
theorem pc_le_of_fetchWord {w : Word} (h : fetchWord s = some w) : s.pc.toNat ≤ 0xFFE := by
  rw [fetchWord] at h
  split at h
  · cases h
  · next hpc => simp only [Config.memTop] at hpc; omega

/-- The advance does not wrap after a fetch (R122). -/
theorem advance_toNat (h : s.pc.toNat ≤ 0xFFE) : (s.pc + 2).toNat = s.pc.toNat + 2 :=
  BitVec.toNat_add_of_lt (show s.pc.toNat + 2 < 2 ^ 16 by omega)

theorem decode_two_bytes (m : Memory) (a : Nat) :
    decode (m.readBytes a 2) = .ok (decodeWord (wordOfBytes (m.read a) (m.read (a + 1))), []) := rfl

/-- Settles O10: the step is enabled and its fetch finds no word. -/
theorem fetchBeyondMemoryFaults : Obligations.FetchBeyondMemoryFaults := by
  unfold Obligations.FetchBeyondMemoryFaults
  intro s hf hd hpc
  exact (step_execute hf hd).trans (executorStep_fetch_fault hpc)

/-- Settles O8: the two bytes are the fetched word, its instruction has an answer, and the count depends on FAULT. -/
theorem stepRunsTheDecodedInstruction : Obligations.StepRunsTheDecodedInstruction := by
  unfold Obligations.StepRunsTheDecodedInstruction
  intro s i hf hd hpc hdecode
  rw [decode_two_bytes] at hdecode
  cases hdecode
  obtain ⟨t, ht⟩ := exec_total (decodeWord _) (s.setPc (s.pc + 2))
  have hstep : step s = .next (countStep t) := step_run hf hd (fetchWord_some hpc) ht
  refine ⟨t, ht, fun hrun => ?_, fun hfault => ?_⟩
  · rw [hstep, countStep_running hrun]; rfl
  · rw [hstep, countStep_faulted hfault]

/-- Settles O40: the word decodes to the no-op, so the step is the advance and the count alone. -/
theorem unknownOpcodeIsNoOp : Obligations.UnknownOpcodeIsNoOp := by
  unfold Obligations.UnknownOpcodeIsNoOp
  intro s w hw
  have hdecode : decodeWord w = .nopUnknown w := decodeWord_unknown hw
  refine ⟨hdecode, rfl, fun hf hd hfetch => ⟨?_, advance_toNat (pc_le_of_fetchWord hfetch)⟩⟩
  have hexec : exec (decodeWord w) (s.setPc (s.pc + 2)) = .next (s.setPc (s.pc + 2)) := by rw [hdecode]; rfl
  rw [step_run hf hd hfetch hexec, countStep_running (s := s.setPc (s.pc + 2)) hf]
  rfl

end Sys2Proof.Machine
end

section
/-! PROOFS. The subroutine stack through its two instructions, 2NNN and 00EE (40_fetch_decode_step.md R127, R128). -/

namespace Sys2Proof.Machine

variable {s : State}

/-- The top of a stack of j + 1 entries is entry j (R128). -/
theorem exec_ret_entry {j : Fin 16} (h : s.sp.val = j.val + 1) : exec .ret s =
    .next ((s.setStack s.stk ⟨j.val, by omega⟩).setPc s.stk[j.val]) := by
  have hj : s.sp.val - 1 = j.val := by omega
  rw [exec_ret_top (by omega)]
  simp only [hj]

/-- Settles O15, by the two outcomes of a push: room, or a full stack. -/
theorem callPushesReturnAddress : Obligations.CallPushesReturnAddress := by
  unfold Obligations.CallPushesReturnAddress
  intro nnn s
  refine ⟨decodeWord_encode (i := .call nnn) rfl, fun hroom => ?_, fun hfull => exec_call_full hfull⟩
  refine ⟨_, exec_call_space hroom, ?_, rfl, fun j => ?_, rfl⟩
  · exact BitVec.toNat_setWidth_of_le (by decide)
  · simp only [State.setPc_stk, State.setStack_stk, Vector.getElem_set, eq_comm]

/-- Settles O16: a return takes entry SP - 1, which after a call is the entry the call wrote. -/
theorem returnPopsTopOfStack : Obligations.ReturnPopsTopOfStack := by
  unfold Obligations.ReturnPopsTopOfStack
  intro s
  refine ⟨decodeWord_encode (i := .ret) rfl, fun j hj => ⟨_, exec_ret_entry hj, rfl, rfl, rfl⟩,
    fun hempty => exec_ret_empty hempty, fun nnn hroom => ?_⟩
  exact ⟨_, _, exec_call_space hroom, exec_ret_entry (j := ⟨s.sp.val, hroom⟩) rfl,
    Vector.getElem_set_self hroom, rfl⟩

end Sys2Proof.Machine
end

section
/-! PROOFS. What every event keeps of control (41_control_flow.md R140 to R147): where PC can go in one instruction, and
what becomes of the valid stack entries. -/

namespace Sys2Proof.Machine

variable {i : Instr} {s t : State}

@[simp] theorem countStep_stk (s : State) : (countStep s).stk = s.stk := by rw [countStep_eq]
@[simp] theorem countStep_sp (s : State) : (countStep s).sp = s.sp := by rw [countStep_eq]

@[simp] theorem zextNNN_toNat (nnn : BitVec 12) : (zextNNN nnn).toNat = nnn.toNat :=
  BitVec.toNat_setWidth_of_le (by decide)

@[simp] theorem zextByte_toNat (b : Byte) : (zextByte b).toNat = b.toNat :=
  BitVec.toNat_setWidth_of_le (by decide)

/-- The 16-bit sum of BNNN never wraps: V0 is at most 0xFF and NNN at most 0xFFF (R147). -/
theorem zextByte_add_zextNNN_toNat (b : Byte) (nnn : BitVec 12) :
    (zextByte b + zextNNN nnn).toNat = b.toNat + nnn.toNat := by
  have hb := b.isLt
  have hn := nnn.isLt
  rw [BitVec.toNat_add_of_lt, zextByte_toNat, zextNNN_toNat]
  rw [zextByte_toNat, zextNNN_toNat]; omega

/-- The addresses an instruction run from `s` can leave in PC, `s.pc` being the address of the following instruction. -/
inductive PcTarget (s : State) : Addr → Prop
  | next : PcTarget s s.pc
  | skip : PcTarget s (s.pc + 2)
  | stay : PcTarget s (s.pc - 2)
  | jump (nnn : BitVec 12) : PcTarget s (zextNNN nnn)
  | offset (nnn : BitVec 12) : PcTarget s (zextByte (s.reg 0) + zextNNN nnn)
  | entry (j : Fin 16) (valid : j.val < s.sp.val) : PcTarget s s.stk[j.val]

theorem skipIf_pcTarget (c : Bool) (s : State) : PcTarget s (skipIf c s).pc := by
  cases c with
  | false => exact .next
  | true => exact .skip

/-- By the families of instructions: the rest of them leave the advanced PC alone. -/
theorem exec_pcTarget (ht : exec i s = .next t) : PcTarget s t.pc := by
  cases i with
  | jp nnn => cases ht; exact .jump nnn
  | jpV0 nnn => cases ht; exact .offset nnn
  | seImm | sneImm | seReg | sneReg | skp | sknp => cases ht; exact skipIf_pcTarget _ s
  | call nnn =>
    rcases exec_call_cases ht with ⟨-, rfl⟩ | ⟨_, rfl⟩
    · exact .next
    · exact .jump nnn
  | ret =>
    rcases exec_ret_cases ht with ⟨-, rfl⟩ | ⟨hpos, rfl⟩
    · exact .next
    · exact .entry ⟨s.sp.val - 1, by omega⟩ (Nat.sub_one_lt_of_lt hpos)
  | ldVxK =>
    rcases exec_ldVxK_cases ht with ⟨-, rfl⟩ | ⟨k, -, -, rfl⟩ | ⟨k, -, -, rfl⟩
    · exact .stay
    · exact .stay
    · exact .next
  | drw | ldBVx | ldMemVx | ldVxMem =>
    rcases exec_span_cases rfl ht with ⟨-, rfl⟩ | ⟨-, rfl⟩
    · exact .next
    · exact .next
  | _ => cases ht; exact .next

/-- Only a call and a return write the stack: a call adds PC as the top entry, a return gives the top entry up. -/
theorem exec_stack_cases (ht : exec i s = .next t) :
    (t.stk = s.stk ∧ t.sp.val ≤ s.sp.val) ∨
      ∃ h : s.sp.val < 16, t.stk = s.stk.set s.sp.val s.pc h ∧ t.sp.val = s.sp.val + 1 := by
  obtain ⟨-, -, -, -, -, hstack, -⟩ := onlyNamedInstructionsWriteState i s t ht
  by_cases hw : t.stk ≠ s.stk ∨ t.sp ≠ s.sp
  · rcases hstack hw with rfl | ⟨nnn, rfl⟩
    · rcases exec_ret_cases ht with ⟨-, rfl⟩ | ⟨_, rfl⟩
      · exact .inl ⟨rfl, Nat.le_refl _⟩
      · exact .inl ⟨rfl, Nat.sub_le _ _⟩
    · rcases exec_call_cases ht with ⟨-, rfl⟩ | ⟨h, rfl⟩
      · exact .inl ⟨rfl, Nat.le_refl _⟩
      · exact .inr ⟨h, rfl, rfl⟩
  · obtain ⟨hstk, hsp⟩ := not_or.mp hw
    exact .inl ⟨not_not.mp hstk, Nat.le_of_eq (congrArg Fin.val (not_not.mp hsp))⟩

/-- An address a call can push: that of the word after some fetched word (R140). -/
def IsReturnAddress (a : Addr) : Prop := 0x002 ≤ a.toNat ∧ a.toNat ≤ 0x1000

/-- The part of `ControlInRange` about the stack. -/
def StackInRange (s : State) : Prop := ∀ j : Fin 16, j.val < s.sp.val → IsReturnAddress s.stk[j.val]

theorem controlInRange_iff : ControlInRange s ↔ s.pc.toNat ≤ 0x10FE ∧ StackInRange s := Iff.rfl

/-- After a fetch the advanced PC is a return address, whether it is pushed or not (R122). -/
theorem advance_isReturnAddress (h : s.pc.toNat ≤ 0xFFE) : IsReturnAddress (s.pc + 2) := by
  rw [IsReturnAddress, advance_toNat h]; omega

/-- The highest PC there is comes of BNNN: 0xFF + 0xFFF = 0x10FE (R147, decision D18). -/
theorem PcTarget.toNat_le {a : Addr} (h : PcTarget s a) (hpc : IsReturnAddress s.pc) (hstk : StackInRange s) :
    a.toNat ≤ 0x10FE := by
  obtain ⟨hlo, hhi⟩ := hpc
  cases h with
  | next => omega
  | skip => bv_omega
  | stay => bv_omega
  | jump nnn => have := nnn.isLt; rw [zextNNN_toNat]; omega
  | offset nnn =>
    have := (s.reg 0).isLt
    have := nnn.isLt
    rw [zextByte_add_zextNNN_toNat]; omega
  | entry j hj => obtain ⟨-, htop⟩ := hstk j hj; omega

/-- A push adds the return address PC on top of the entries there were, anything else leaves fewer or the same. -/
theorem exec_keeps_stackInRange (hpc : IsReturnAddress s.pc) (hstk : StackInRange s) (ht : exec i s = .next t) :
    StackInRange t := by
  intro j hj
  rcases exec_stack_cases ht with ⟨hsame, hsp⟩ | ⟨hroom, hpush, hsp⟩
  · rw [hsame]; exact hstk j (by omega)
  · simp only [hpush, Vector.getElem_set]
    split
    · exact hpc
    · exact hstk j (by omega)

/-- Settles O53: a tick and a fetch fault write neither PC nor the stack; an instruction starts from a PC that has just
advanced from at most 0xFFE. -/
theorem everyEventKeepsControlInRange : Obligations.EveryEventKeepsControlInRange := by
  unfold Obligations.EveryEventKeepsControlInRange
  intro s t hs h
  obtain ⟨-, ⟨-, rfl⟩ | ⟨-, -, rfl⟩ | ⟨-, hpc, w, u, -, hu, rfl⟩⟩ := step_cases h
  · exact hs
  · exact hs
  · obtain ⟨-, hstk⟩ := controlInRange_iff.mp hs
    have hadv : IsReturnAddress (s.setPc (s.pc + 2)).pc := advance_isReturnAddress hpc
    have hstk' : StackInRange (s.setPc (s.pc + 2)) := hstk
    have hu_pc := (exec_pcTarget hu).toNat_le hadv hstk'
    have hu_stk := exec_keeps_stackInRange hadv hstk' hu
    rw [controlInRange_iff, StackInRange, countStep_pc, countStep_sp, countStep_stk]
    exact ⟨hu_pc, hu_stk⟩

end Sys2Proof.Machine
end

section
/-! PROOFS. Nested calls and their returns (41_control_flow.md R140, R142; 95_test_vectors.md S6). -/

namespace Sys2Proof.Machine

variable {s t : State}

theorem execAll_cons {i : Instr} (is : List Instr) (h : exec i s = .next t) : execAll (i :: is) s = execAll is t := by
  rw [execAll, h]

theorem execAll_append {is : List Instr} (js : List Instr) (h : execAll is s = .next t) :
    execAll (is ++ js) s = execAll js t := by
  induction is generalizing s with
  | nil => cases h; rfl
  | cons i is ih =>
    obtain ⟨u, hu⟩ := exec_total i s
    rw [execAll_cons is hu] at h
    rw [List.cons_append, execAll_cons _ hu, ih h]

/-- From the outermost call inwards: the calls nested in it are undone by their returns above its own entry, which the
last return then takes. -/
theorem execAll_calls_then_returns (targets : List (BitVec 12)) (s : State) (h : s.sp.val + targets.length ≤ 16) :
    ∃ (t : State) (stk : Vector Addr 16), execAll (targets.map Instr.call) s = .next t ∧
      t.sp.val = s.sp.val + targets.length ∧
      execAll (List.replicate targets.length Instr.ret) t = .next { s with stk := stk } ∧
      ∀ j : Fin 16, j.val < s.sp.val → stk[j.val] = s.stk[j.val] := by
  induction targets generalizing s with
  | nil => exact ⟨s, s.stk, rfl, rfl, rfl, fun _ _ => rfl⟩
  | cons nnn targets ih =>
    rw [List.length_cons] at h
    have hroom : s.sp.val < 16 := by omega
    obtain ⟨t, stk, hcalls, hsp, hreturns, hbelow⟩ :=
      ih ((s.setStack (s.stk.set s.sp.val s.pc hroom) ⟨s.sp.val + 1, Nat.succ_lt_succ hroom⟩).setPc (zextNNN nnn))
        (by simp only [State.setPc_sp, State.setStack_sp]; omega)
    simp only [State.setPc_sp, State.setStack_sp, State.setPc_stk, State.setStack_stk] at hsp hbelow
    refine ⟨t, stk, ?_, ?_, ?_, fun j hj => ?_⟩
    · rw [List.map_cons, execAll_cons _ (exec_call_space hroom), hcalls]
    · rw [hsp, List.length_cons]; omega
    · have htop : stk[s.sp.val] = s.pc :=
        (hbelow ⟨s.sp.val, hroom⟩ (Nat.lt_succ_self _)).trans (Vector.getElem_set_self hroom)
      rw [List.length_cons, List.replicate_succ', execAll_append _ hreturns,
        execAll_cons _ (exec_ret_entry (j := ⟨s.sp.val, hroom⟩) rfl), ← htop]
      rfl
    · rw [hbelow j (Nat.lt_succ_of_lt hj), Vector.getElem_set_ne _ _ (by omega)]

/-- Settles O17, by the induction above; SP is 16 when the calls have filled the stack. -/
theorem nestedCallsUnwind : Obligations.NestedCallsUnwind := by
  unfold Obligations.NestedCallsUnwind
  intro s targets h
  obtain ⟨t, stk, hcalls, hsp, hreturns, hbelow⟩ := execAll_calls_then_returns targets s h
  rw [← List.map_const'] at hreturns
  exact ⟨t, _, hcalls, hsp, hreturns, rfl, rfl, hbelow, rfl, fun hfull nnn => exec_call_full (hsp.trans hfull)⟩

end Sys2Proof.Machine
end

section
/-! PROOFS. The words of the formats XIMM and XY as sums, which is how statements name them (30_encoding.md R92), and the
jump, the index load and the conditional skips (40_fetch_decode_step.md R126; 41_control_flow.md R141, R143 to R146). -/

namespace Sys2Proof

theorem packXNN_eq (op : Nat) (x : RegIdx) (nn : Byte) :
    packXNN op x nn = BitVec.ofNat 16 (0x1000 * op + 0x100 * x.val + nn.toNat) := by
  rw [packXNN, Nat.mul_comm op, Nat.mul_comm x.val]

theorem packXYN_eq (op : Nat) (x y n : RegIdx) :
    packXYN op x y n = BitVec.ofNat 16 (0x1000 * op + 0x100 * x.val + 0x10 * y.val + n.val) := by
  rw [packXYN, Nat.mul_comm op, Nat.mul_comm x.val, Nat.mul_comm y.val]

/-- The last nibble of a 5XYN word is ignored (decision D10). -/
theorem decodeWord_packXYN_seReg (x y n : RegIdx) : decodeWord (packXYN 0x5 x y n) = .seReg x y := by
  simp [decodeWord]

/-- The last nibble of a 9XYN word is ignored (decision D10). -/
theorem decodeWord_packXYN_sneReg (x y n : RegIdx) : decodeWord (packXYN 0x9 x y n) = .sneReg x y := by
  simp [decodeWord]

namespace Machine

variable {i : Instr} {s : State}

theorem fetchWord_none (h : 0xFFE < s.pc.toNat) : fetchWord s = none := by
  rw [fetchWord, if_pos (Nat.succ_lt_succ h)]

theorem exec_jp (nnn : BitVec 12) (s : State) : exec (.jp nnn) s = .next (s.setPc (zextNNN nnn)) := rfl

theorem exec_ldI (nnn : BitVec 12) (s : State) : exec (.ldI nnn) s = .next (s.setI (zextNNN nnn)) := rfl

/-- A jump to its own address puts the advanced PC back (R141). -/
theorem step_jump_to_self {nnn : BitVec 12} {w : Word} (hf : s.fault = none) (hd : s.sc < s.ipt)
    (hw : fetchWord s = some w) (hjp : decodeWord w = .jp nnn) (hself : s.pc.toNat = nnn.toNat) :
    step s = .next s.bumpSc := by
  have hpc : zextNNN nnn = s.pc := BitVec.eq_of_toNat_eq ((zextNNN_toNat nnn).trans hself.symm)
  have hexec : exec (decodeWord w) (s.setPc (s.pc + 2)) = .next s := by rw [hjp, exec_jp, hpc]; rfl
  rw [step_run hf hd hw hexec, countStep_running hf]

/-- Settles O13: both instructions write one field with NNN, and 0xFFF is beyond the last fetch address. -/
theorem jumpAndIndexLoadTakeNNN : Obligations.JumpAndIndexLoadTakeNNN := by
  unfold Obligations.JumpAndIndexLoadTakeNNN
  intro nnn s
  have hjp : decodeWord (BitVec.ofNat 16 (0x1000 + nnn.toNat)) = .jp nnn := decodeWord_encode (i := .jp nnn) rfl
  have hldI : decodeWord (BitVec.ofNat 16 (0xA000 + nnn.toNat)) = .ldI nnn := decodeWord_encode (i := .ldI nnn) rfl
  refine ⟨⟨hjp, ⟨_, exec_jp nnn s, zextNNN_toNat nnn, rfl⟩, ?_, ?_⟩,
    hldI, _, exec_ldI nnn s, zextNNN_toNat nnn, ?_, rfl⟩
  · rintro rfl t ht
    cases ht
    exact fetchWord_none (by rw [State.setPc_pc]; decide)
  · intro hf hd hw hself
    exact step_jump_to_self hf hd hw hjp hself
  · rw [State.setI_i, zextNNN_toNat]
    exact Nat.le_of_lt_succ nnn.isLt

/-- What an instruction that is a conditional skip does, by the condition it tests (R126). -/
theorem setsPcOnly_skipIf {c : Bool} {P : Prop} [Decidable P] (hi : exec i s = .next (skipIf c s))
    (hc : c = true ↔ P) : SetsPcOnly i (if P then (s.pc.toNat + 2) % 0x10000 else s.pc.toNat) s := by
  refine ⟨_, hi, ?_, by rw [skipIf_eq]⟩
  by_cases hp : P
  · rw [if_pos hp, hc.mpr hp, skipIf_eq]; rfl
  · rw [if_neg hp, Bool.eq_false_iff.mpr (mt hc.mp hp), skipIf_eq]; rfl

theorem setsPcOnly_skipIf_eq {a b : Byte} (hi : exec i s = .next (skipIf (a == b) s)) :
    SetsPcOnly i (if a.toNat = b.toNat then (s.pc.toNat + 2) % 0x10000 else s.pc.toNat) s :=
  setsPcOnly_skipIf hi (beq_iff_eq.trans BitVec.toNat_inj.symm)

theorem setsPcOnly_skipIf_ne {a b : Byte} (hi : exec i s = .next (skipIf (a != b) s)) :
    SetsPcOnly i (if a.toNat = b.toNat then s.pc.toNat else (s.pc.toNat + 2) % 0x10000) s := by
  rw [← ite_not]
  exact setsPcOnly_skipIf hi (bne_iff_ne.trans (not_congr BitVec.toNat_inj.symm))

/-- Settles O18: the words are the encoder's, and both instructions are skips on a comparison with NN. -/
theorem immediateSkipsCompare : Obligations.ImmediateSkipsCompare := by
  unfold Obligations.ImmediateSkipsCompare
  intro x nn s
  refine ⟨⟨?_, setsPcOnly_skipIf_eq rfl⟩, ?_, setsPcOnly_skipIf_ne rfl⟩
  · exact packXNN_eq 0x3 x nn ▸ decodeWord_encode (i := .seImm x nn) rfl
  · exact packXNN_eq 0x4 x nn ▸ decodeWord_encode (i := .sneImm x nn) rfl

/-- Settles O19: the decoder passes over N, and both instructions are skips on a comparison of two registers. -/
theorem registerSkipsCompare : Obligations.RegisterSkipsCompare := by
  unfold Obligations.RegisterSkipsCompare
  intro x y n s
  refine ⟨⟨?_, setsPcOnly_skipIf_eq rfl⟩, ?_, setsPcOnly_skipIf_ne rfl⟩
  · exact packXYN_eq 0x5 x y n ▸ decodeWord_packXYN_seReg x y n
  · exact packXYN_eq 0x9 x y n ▸ decodeWord_packXYN_sneReg x y n

end Machine

end Sys2Proof
end

section
/-! PROOFS. Register loads and the 8-bit ALU (42_alu.md R160 to R170): the words 8XYN, the results and flags as arithmetic
on the operands' values, and the two shapes "Vx = .." and "Vx = ..; VF = ..". -/

namespace Sys2Proof

/-- The words of group 0x8 as statements name them, the selector N next to the op (R92, R94). -/
theorem decodeWord_8XYN {i : Instr} {x y : RegIdx} (n : Fin 16) (hi : encode i = packXYN 0x8 x y n)
    (hwf : i.wellFormed = true) :
    decodeWord (BitVec.ofNat 16 (0x8000 + n.val + 0x100 * x.val + 0x10 * y.val)) = i := by
  have hword : packXYN 0x8 x y n = BitVec.ofNat 16 (0x8000 + n.val + 0x100 * x.val + 0x10 * y.val) := by
    rw [packXYN]; congr 1; omega
  rw [← hword, ← hi, decodeWord_encode hwf]

namespace Machine

variable {i : Instr} {x : RegIdx} {s : State}

/-! The results and flags of Machine/Flags.lean as numbers (R161, R166 to R170, R172). -/

theorem addResult_toNat (a b : Byte) : (addResult a b).toNat = (a.toNat + b.toNat) % 256 :=
  BitVec.toNat_add a b

theorem subResult_toNat (a b : Byte) : (subResult a b).toNat =
    if a.toNat ≥ b.toNat then a.toNat - b.toNat else a.toNat + 256 - b.toNat := by
  have ha := a.isLt
  have hb := b.isLt
  rw [subResult, BitVec.toNat_sub]
  split <;> omega

theorem shrResult_toNat (t : Byte) : (shrResult t).toNat = t.toNat / 2 := by
  rw [shrResult, BitVec.toNat_ushiftRight, Nat.shiftRight_one]

theorem shlResult_toNat (t : Byte) : (shlResult t).toNat = 2 * t.toNat % 256 := by
  rw [shlResult, BitVec.toNat_shiftLeft, Nat.shiftLeft_eq, Nat.mul_comm]

theorem flagByte_toNat (c : Bool) : (flagByte c).toNat = c.toNat := by
  cases c <;> rfl

theorem flagByte_decide_toNat (p : Prop) [Decidable p] : (flagByte (decide p)).toNat = if p then 1 else 0 := by
  by_cases h : p
  · rw [decide_eq_true h, if_pos h]; rfl
  · rw [decide_eq_false h, if_neg h]; rfl

/-- A flag that is bit k of a byte. -/
theorem flagByte_getLsbD_toNat (t : Byte) (k : Nat) : (flagByte (t.getLsbD k)).toNat = t.toNat / 2 ^ k % 2 := by
  rw [flagByte_toNat, BitVec.getLsbD, Nat.toNat_testBit]

theorem shrFlag_toNat (t : Byte) : (shrFlag t).toNat = t.toNat % 2 := by
  rw [shrFlag, flagByte_getLsbD_toNat, Nat.pow_zero, Nat.div_one]

/-- Bit 7 is the top bit, so nothing is left above it. -/
theorem shlFlag_toNat (t : Byte) : (shlFlag t).toNat = t.toNat / 128 := by
  have ht := t.isLt
  rw [shlFlag, flagByte_getLsbD_toNat]
  omega

/-! The two shapes. -/

theorem writesOneRegister_setReg {b : Byte} {value : Nat} (hi : exec i s = .next (s.setReg x b))
    (hb : b.toNat = value) : WritesOneRegister i x value s :=
  ⟨_, hi, by rw [State.reg_setReg, if_pos rfl, hb], fun r hr => by rw [State.reg_setReg, if_neg hr], rfl⟩

/-- The flag is the last write, so it stands in VF whatever x is (R173; decision D9, log 14). -/
theorem writesResultThenFlag_writeResultFlag {b f : Byte} {result flag : Nat}
    (hi : exec i s = .next (writeResultFlag x b f s)) (hb : b.toNat = result) (hf : f.toNat = flag) :
    WritesResultThenFlag i x result flag s := by
  refine ⟨_, hi, ?_, fun hx => ?_, fun r hrx hrf => ?_, writeResultFlag_frame x b f s⟩
  · rw [reg_vf_writeResultFlag, hf]
  · rw [reg_writeResultFlag, if_neg hx, if_pos rfl, hb]
  · rw [reg_writeResultFlag, if_neg hrf, if_neg hrx]

/-- Settles O22: the words are the encoder's; each result and each flag is its arithmetic on the operands. -/
theorem addAndSubtractSetCarry : Obligations.AddAndSubtractSetCarry := by
  unfold Obligations.AddAndSubtractSetCarry
  intro x y s
  refine ⟨⟨decodeWord_8XYN 0x4 rfl rfl, ?_⟩, ⟨decodeWord_8XYN 0x5 rfl rfl, ?_⟩, decodeWord_8XYN 0x7 rfl rfl, ?_⟩
  · exact writesResultThenFlag_writeResultFlag rfl (addResult_toNat _ _) (flagByte_decide_toNat _)
  · exact writesResultThenFlag_writeResultFlag rfl (subResult_toNat _ _) (flagByte_decide_toNat _)
  · exact writesResultThenFlag_writeResultFlag rfl (subResult_toNat _ _) (flagByte_decide_toNat _)

/-- Settles O23: both shifts take V[y] alone as operand; the flag is its bit 0 or its bit 7. -/
theorem shiftsCopyVyThenShift : Obligations.ShiftsCopyVyThenShift := by
  unfold Obligations.ShiftsCopyVyThenShift
  intro x y s
  refine ⟨⟨decodeWord_8XYN 0x6 rfl rfl, ?_⟩, decodeWord_8XYN 0xE rfl rfl, ?_⟩
  · exact writesResultThenFlag_writeResultFlag rfl (shrResult_toNat _) (shrFlag_toNat _)
  · exact writesResultThenFlag_writeResultFlag rfl (shlResult_toNat _) (shlFlag_toNat _)

/-- Settles O20: each of the three is one `setReg`. -/
theorem registerLoadsAndImmediateAdd : Obligations.RegisterLoadsAndImmediateAdd := by
  unfold Obligations.RegisterLoadsAndImmediateAdd
  intro x y nn s
  refine ⟨⟨?_, ?_⟩, ⟨?_, ?_⟩, decodeWord_8XYN 0x0 rfl rfl, ?_⟩
  · exact packXNN_eq 0x6 x nn ▸ decodeWord_encode (i := .ldImm x nn) rfl
  · exact writesOneRegister_setReg rfl rfl
  · exact packXNN_eq 0x7 x nn ▸ decodeWord_encode (i := .addImm x nn) rfl
  · exact writesOneRegister_setReg rfl (addResult_toNat _ _)
  · exact writesOneRegister_setReg rfl rfl

/-- Settles O21: the bitwise operations on bytes are those on their values, and the flag is the byte 0. -/
theorem logicOpsClearVf : Obligations.LogicOpsClearVf := by
  unfold Obligations.LogicOpsClearVf
  intro x y s
  refine ⟨⟨decodeWord_8XYN 0x1 rfl rfl, ?_⟩, ⟨decodeWord_8XYN 0x2 rfl rfl, ?_⟩, decodeWord_8XYN 0x3 rfl rfl, ?_⟩
  · exact writesResultThenFlag_writeResultFlag rfl (BitVec.toNat_or _ _) rfl
  · exact writesResultThenFlag_writeResultFlag rfl (BitVec.toNat_and _ _) rfl
  · exact writesResultThenFlag_writeResultFlag rfl (BitVec.toNat_xor _ _) rfl

end Machine

end Sys2Proof
end

section
/-! PROOFS. The address register and memory (43_index_memory.md R191 to R195): the words FXNN, I as a number, and the bytes
and registers that FX33, FX55 and FX65 move through a span at I. -/

namespace Sys2Proof

/-- The words of group 0xF as statements name them, the selector NN next to the op (R92, R94). -/
theorem decodeWord_FXNN {i : Instr} {x : RegIdx} (nn : Byte) (hi : encode i = packXNN 0xF x nn)
    (hwf : i.wellFormed = true) : decodeWord (BitVec.ofNat 16 (0xF000 + nn.toNat + 0x100 * x.val)) = i := by
  rw [Nat.add_right_comm, ← packXNN_eq 0xF x nn, ← hi, decodeWord_encode hwf]

namespace Machine

variable {s : State} {x : RegIdx}

/-! I as a number (R191, R192). -/

theorem exec_addIVx (x : RegIdx) (s : State) : exec (.addIVx x) s = .next (advanceI (zextByte (s.reg x)) s) := rfl

theorem exec_ldFVx (x : RegIdx) (s : State) :
    exec (.ldFVx x) s = .next (s.setI (glyphAddr (lowNibble (s.reg x)))) := rfl

theorem advanceI_toNat (n : Addr) (s : State) : (advanceI n s).i.toNat = (s.i.toNat + n.toNat) % 0x10000 :=
  BitVec.toNat_add s.i n

/-- The highest glyph is at 0x09B, so the address does not wrap. -/
theorem glyphAddr_toNat (d : Fin 16) : (glyphAddr d).toNat = 0x050 + 5 * d.val := by
  have hd : 0x050 + 5 * d.val < 0x10000 := by omega
  rw [glyphAddr, BitVec.toNat_ofNat]
  exact Nat.mod_eq_of_lt hd

/-- Past a span that ends in memory, I does not wrap (R194, R195). -/
theorem advanceI_past_span (h : s.i.toNat + x.val ≤ 0xFFF) :
    (advanceI (BitVec.ofNat 16 (x.val + 1)) s).i.toNat = s.i.toNat + x.val + 1 := by
  have hx := x.isLt
  rw [advanceI_toNat, BitVec.toNat_ofNat]
  omega

/-- Settles O25: each of the two is one write of I. -/
theorem indexArithmetic : Obligations.IndexArithmetic := by
  unfold Obligations.IndexArithmetic
  intro x s
  refine ⟨⟨decodeWord_FXNN 0x1E rfl rfl, _, exec_addIVx x s, ?_, rfl⟩,
    decodeWord_FXNN 0x29 rfl rfl, _, exec_ldFVx x s, glyphAddr_toNat _, rfl⟩
  rw [advanceI_toNat, zextByte_toNat]

/-! The span instructions inside memory and out of it (R253). -/

theorem exec_ldBVx_in (h : s.i.toNat + 2 ≤ 0xFFF) :
    exec (.ldBVx x) s = .next (storeAtI (bcdDigits (s.reg x)) s) :=
  (exec_ldBVx x s).trans (withSpan_in (spanOutOfRange_false (by omega)))

theorem exec_ldMemVx_in (h : s.i.toNat + x.val ≤ 0xFFF) :
    exec (.ldMemVx x) s = .next (advanceI (BitVec.ofNat 16 (x.val + 1)) (storeAtI (s.regsUpTo x) s)) :=
  (exec_ldMemVx x s).trans (withSpan_in (spanOutOfRange_false (by omega)))

theorem exec_ldVxMem_in (h : s.i.toNat + x.val ≤ 0xFFF) :
    exec (.ldVxMem x) s =
      .next (advanceI (BitVec.ofNat 16 (x.val + 1)) (s.setRegs (loadRegs s.mem s.i.toNat s.v (x.val + 1)))) :=
  (exec_ldVxMem x s).trans (withSpan_in (spanOutOfRange_false (by omega)))

/-- A condition on the last byte of a span of n + 1 bytes is the range check. -/
theorem withSpan_last_out {n : Nat} {k : Result} (h : s.i.toNat + n > 0xFFF) :
    withSpan (n + 1) s k = .next { s with fault := some .memRangeData } :=
  withSpan_out ((spanOutOfRange_iff _ _).mpr ⟨by omega, by omega⟩)

/-! What a store leaves in memory (R69, R70). -/

section Stored

variable {bytes : List Byte} (hs : MemoryCanonical s) (hspan : s.i.toNat + bytes.length ≤ 0x1000)

include hs hspan

theorem read_storeAtI_inside {k : Nat} (hk : k < bytes.length) :
    (storeAtI bytes s).mem.read (s.i.toNat + k) = bytes.getD k 0 := by
  rw [storeAtI, State.setMem_mem, Memory.read_writeBytes hs hspan, if_pos (by omega), Nat.add_sub_cancel_left]

theorem read_storeAtI_outside {a : Nat} (ha : a < s.i.toNat ∨ s.i.toNat + bytes.length ≤ a) :
    (storeAtI bytes s).mem.read a = s.mem.read a := by
  rw [storeAtI, State.setMem_mem, Memory.read_writeBytes hs hspan, if_neg (by omega)]

end Stored

/-- Settles O26: the three digits are a store of three bytes at I. -/
theorem bcdStoresThreeDigits : Obligations.BcdStoresThreeDigits := by
  unfold Obligations.BcdStoresThreeDigits
  intro x s hs
  refine ⟨decodeWord_FXNN 0x33 rfl rfl, fun hi => ?_, fun hi => (exec_ldBVx x s).trans (withSpan_last_out hi)⟩
  have hlen := bcdDigits_length (s.reg x)
  have hspan : s.i.toNat + (bcdDigits (s.reg x)).length ≤ 0x1000 := by omega
  have hdigit (k : Nat) (hk : k < 3) := (congrArg BitVec.toNat (read_storeAtI_inside hs hspan hk)).trans
    (bcdDigits_toNat (s.reg x) k hk)
  exact ⟨_, exec_ldBVx_in hi, hdigit 0 (by decide), hdigit 1 (by decide), hdigit 2 (by decide),
    fun a ha => read_storeAtI_outside hs hspan (by omega), rfl⟩

/-- Settles O27: the registers are a store of x + 1 bytes at I, and I then moves past them. -/
theorem registerDumpStoresV0ToVx : Obligations.RegisterDumpStoresV0ToVx := by
  unfold Obligations.RegisterDumpStoresV0ToVx
  intro x s hs
  refine ⟨decodeWord_FXNN 0x55 rfl rfl, fun hi => ?_, fun hi => (exec_ldMemVx x s).trans (withSpan_last_out hi)⟩
  have hlen := State.regsUpTo_length s x
  have hspan : s.i.toNat + (s.regsUpTo x).length ≤ 0x1000 := by omega
  refine ⟨_, exec_ldMemVx_in hi, fun k hk => ?_, fun a ha => ?_, advanceI_past_span hi, rfl⟩
  · exact (read_storeAtI_inside hs hspan (by omega)).trans (State.regsUpTo_getD s x hk)
  · exact read_storeAtI_outside hs hspan (by omega)

/-- Everything a block load of x + 1 registers does to V (R195). -/
theorem reg_setRegs_loadRegs (m : Memory) (base : Nat) (x k : RegIdx) (s : State) :
    (s.setRegs (loadRegs m base s.v (x.val + 1))).reg k =
      if k.val ≤ x.val then m.read (base + k.val) else s.reg k := by
  simp only [← Nat.lt_succ_iff]
  exact getElem_loadRegs m base s.v (x.val + 1) k.val k.isLt

/-- Settles O28: the registers are a block load of x + 1 bytes from I, and I then moves past them. -/
theorem registerLoadFillsV0ToVx : Obligations.RegisterLoadFillsV0ToVx := by
  unfold Obligations.RegisterLoadFillsV0ToVx
  intro x s
  refine ⟨decodeWord_FXNN 0x65 rfl rfl, fun hi => ?_, fun hi => (exec_ldVxMem x s).trans (withSpan_last_out hi)⟩
  exact ⟨_, exec_ldVxMem_in hi, fun k => reg_setRegs_loadRegs s.mem s.i.toNat x k s, advanceI_past_span hi, rfl⟩

/-- Settles O29, from what the dump and the load each do: byte I + k holds V[k] in between. -/
theorem dumpThenLoadRestoresRegisters : Obligations.DumpThenLoadRestoresRegisters := by
  unfold Obligations.DumpThenLoadRestoresRegisters
  intro x s hs hi
  obtain ⟨-, hdump, -⟩ := registerDumpStoresV0ToVx x s hs
  obtain ⟨t, ht, hstored, -, hti, -⟩ := hdump hi
  refine ⟨t, ht, fun u humem hui => ?_⟩
  obtain ⟨-, hload, -⟩ := registerLoadFillsV0ToVx x u
  obtain ⟨w, hw, hloaded, hwi, -⟩ := hload (by rw [hui]; exact hi)
  refine ⟨w, hw, BitVec.eq_of_toNat_eq (by rw [hwi, hti, hui]), fun k hk => ?_⟩
  rw [hloaded, if_pos hk, humem, hui, hstored k hk]

end Machine

end Sys2Proof
end

section
/-! PROOFS. The display instructions (44_display.md R210 to R215): the words 0XE0 and DXYN, and a draw as a whole, whose
pixels and collision `blit_spec` gives. -/

namespace Sys2Proof

/-- The x nibble of 0XE0 is ignored (R95; decision D10, log 13). -/
theorem decodeWord_0XE0 (x : RegIdx) : decodeWord (BitVec.ofNat 16 (0x00E0 + 0x100 * x.val)) = .cls := by
  have hword : packXNN 0x0 x 0xE0 = BitVec.ofNat 16 (0x00E0 + 0x100 * x.val) := by
    rw [packXNN_eq, Nat.mul_zero, Nat.zero_add, Nat.add_comm]
    rfl
  rw [← hword]
  simp [decodeWord, decodeGroup0]

namespace Machine

variable {s : State} {x y : RegIdx} {n : Fin 16}

/-! Clearing (R210). -/

theorem exec_cls (s : State) : exec .cls s = .next (s.setFb FrameBuffer.blank) := rfl

/-- Settles O32: every pixel of the blank framebuffer is false, and it is all that is written. -/
theorem clearBlanksEveryPixel : Obligations.ClearBlanksEveryPixel := by
  unfold Obligations.ClearBlanksEveryPixel
  intro x s
  refine ⟨decodeWord_0XE0 x, _, exec_cls s, fun r c => ?_, rfl⟩
  rw [← FrameBuffer.pixel_of_lt _ r.isLt c.isLt, State.setFb_fb, FrameBuffer.pixel_blank]

/-! Drawing (R211 to R214). -/

/-- The sprite bit that a draw from this state lands on the pixel at row r, column c (R212). -/
def landingBit (x y : RegIdx) (n : Fin 16) (s : State) (r c : Nat) : Bool :=
  spriteBit s.mem s.i.toNat ((s.reg x).toNat % 64) ((s.reg y).toNat % 32) n.val r c

/-- The framebuffer and the collision record of a draw from this state. -/
def drawn (x y : RegIdx) (n : Fin 16) (s : State) : Blit :=
  blit s.mem s.i.toNat (startCol (s.reg x)) (startRow (s.reg y)) n.val s.fb

/-- The state after a draw that is in range. -/
def afterDraw (x y : RegIdx) (n : Fin 16) (s : State) : State :=
  (s.setFb (drawn x y n s).fb).setReg vf (flagByte (drawn x y n s).collided)

theorem exec_drw_in (h : n.val = 0 ∨ s.i.toNat + n.val - 1 ≤ 0xFFF) :
    exec (.drw x y n) s = .next (afterDraw x y n s) := by
  refine (exec_drw x y n s).trans (withSpan_in ?_)
  rw [← Bool.not_eq_true, spanOutOfRange_iff]
  omega

theorem exec_drw_out (hn : 1 ≤ n.val) (h : s.i.toNat + n.val - 1 > 0xFFF) :
    exec (.drw x y n) s = .next (s.setFault .memRangeData) :=
  (exec_drw x y n s).trans (withSpan_out ((spanOutOfRange_iff _ _).mpr ⟨hn, by omega⟩))

theorem afterDraw_pixel (x y : RegIdx) (n : Fin 16) (s : State) (r : Fin 32) (c : Fin 64) :
    (afterDraw x y n s).fb[r.val][c.val] = xor s.fb[r.val][c.val] (landingBit x y n s r.val c.val) :=
  (blit_spec ..).1 r c

theorem drawn_collided_iff (x y : RegIdx) (n : Fin 16) (s : State) : (drawn x y n s).collided = true ↔
    ∃ (r : Fin 32) (c : Fin 64), s.fb[r.val][c.val] = true ∧ landingBit x y n s r.val c.val = true :=
  (blit_spec ..).2

/-- VF is the last write, so it holds the collision whatever x and y are (decision D9, log 14). -/
theorem afterDraw_vf (x y : RegIdx) (n : Fin 16) (s : State) :
    ((afterDraw x y n s).reg vf).toNat = (drawn x y n s).collided.toNat := by
  rw [afterDraw, State.reg_setReg, if_pos rfl, flagByte_toNat]

theorem afterDraw_reg {r : RegIdx} (hr : r ≠ vf) : (afterDraw x y n s).reg r = s.reg r := by
  rw [afterDraw, State.reg_setReg, if_neg hr]
  rfl

/-- Settles O33: the word is the encoder's; in range the draw is `afterDraw`, out of range it is its fault. -/
theorem drawXorsSpriteAndSetsCollision : Obligations.DrawXorsSpriteAndSetsCollision := by
  unfold Obligations.DrawXorsSpriteAndSetsCollision
  intro x y n s
  refine ⟨packXYN_eq 0xD x y n ▸ decodeWord_encode (i := .drw x y n) rfl, fun hin => ?_, exec_drw_out⟩
  refine ⟨_, exec_drw_in hin, afterDraw_pixel x y n s, fun hmet => ?_, fun hmiss => ?_, fun _ => afterDraw_reg, rfl⟩
  · rw [afterDraw_vf, (drawn_collided_iff x y n s).mpr hmet]
    rfl
  · have hnone : (drawn x y n s).collided = false := by
      rw [← Bool.not_eq_true, drawn_collided_iff]
      rintro ⟨r, c, hlit, hbit⟩
      exact Bool.eq_false_iff.mp (hmiss r c hlit) hbit
    rw [afterDraw_vf, hnone]
    rfl

/-! Drawing twice (R215). -/

/-- A draw leaves memory, I and its two coordinates alone, so the same draw lands the same bits again. -/
theorem landingBit_afterDraw (hx : x ≠ vf) (hy : y ≠ vf) (r c : Nat) :
    landingBit x y n (afterDraw x y n s) r c = landingBit x y n s r c := by
  rw [landingBit, afterDraw_reg hx, afterDraw_reg hy]
  rfl

/-- XOR with the same bit twice is no change. -/
theorem afterDraw_afterDraw_fb (hx : x ≠ vf) (hy : y ≠ vf) :
    (afterDraw x y n (afterDraw x y n s)).fb = s.fb := by
  refine Vector.ext fun r hr => Vector.ext fun c hc => ?_
  rw [afterDraw_pixel x y n _ ⟨r, hr⟩ ⟨c, hc⟩, landingBit_afterDraw hx hy, afterDraw_pixel x y n s ⟨r, hr⟩ ⟨c, hc⟩,
    Bool.xor_assoc, Bool.xor_self, Bool.xor_false]

/-- A pixel that a bit has just flipped is lit and meets that bit again exactly when the flip turned it on. -/
theorem xor_met_iff_turned_on : ∀ lit bit : Bool,
    xor lit bit = true ∧ bit = true ↔ lit = false ∧ xor lit bit = true := by decide

/-- A bit that meets a lit pixel in the second draw is one that turned it on in the first. -/
theorem afterDraw_collides_iff_turnedOn (hx : x ≠ vf) (hy : y ≠ vf) :
    (drawn x y n (afterDraw x y n s)).collided = true ↔
      ∃ (r : Fin 32) (c : Fin 64), s.fb[r.val][c.val] = false ∧ (afterDraw x y n s).fb[r.val][c.val] = true := by
  rw [drawn_collided_iff]
  refine exists_congr fun r => exists_congr fun c => ?_
  rw [landingBit_afterDraw hx hy, afterDraw_pixel]
  exact xor_met_iff_turned_on _ _

/-- Settles O34: both draws are in range, for I is the same. -/
theorem drawTwiceRestoresDisplay : Obligations.DrawTwiceRestoresDisplay := by
  unfold Obligations.DrawTwiceRestoresDisplay
  intro x y n s hx hy hin
  refine ⟨_, _, exec_drw_in hin, exec_drw_in hin, afterDraw_afterDraw_fb hx hy, ?_, ?_⟩
  · rw [afterDraw_vf, afterDraw_vf]
    exact ⟨Bool.toNat_le _, Bool.toNat_le _⟩
  · rw [afterDraw_vf, Bool.toNat_eq_one, afterDraw_collides_iff_turnedOn hx hy]

end Machine

end Sys2Proof
end

section
/-! PROOFS. The timer instructions (45_keypad_timers.md R234 to R236) and what ticks make of a timer once it is written
(60_exceptions.md R262). -/

namespace Sys2Proof.Machine

theorem exec_ldVxDt (x : RegIdx) (s : State) : exec (.ldVxDt x) s = .next (s.setReg x s.dt) := rfl

theorem exec_ldDtVx (x : RegIdx) (s : State) : exec (.ldDtVx x) s = .next (s.setDt (s.reg x)) := rfl

theorem exec_ldStVx (x : RegIdx) (s : State) : exec (.ldStVx x) s = .next (s.setSt (s.reg x)) := rfl

/-- A timer's value moves under ticks as a number does under truncated predecessor. -/
theorem iterate_tick_toNat {timer : State → Byte} (h : Function.Semiconj timer tick timerTick) (s : State) (n : Nat) :
    (timer (tick^[n] s)).toNat = (timer s).toNat - n := by
  have hpred : Function.Semiconj BitVec.toNat timerTick Nat.pred := timerTick_toNat
  calc (timer (tick^[n] s)).toNat
      = (timerTick^[n] (timer s)).toNat := by rw [h.iterate_right n s]
    _ = Nat.pred^[n] (timer s).toNat := hpred.iterate_right n (timer s)
    _ = (timer s).toNat - n := Nat.pred_iterate _ n

theorem dt_iterate_tick (s : State) (n : Nat) : (tick^[n] s).dt.toNat = s.dt.toNat - n :=
  iterate_tick_toNat (timer := State.dt) tick_dt s n

theorem st_iterate_tick (s : State) (n : Nat) : (tick^[n] s).st.toNat = s.st.toNat - n :=
  iterate_tick_toNat (timer := State.st) tick_st s n

/-- Every value of ST but 0 sounds (R236). -/
theorem soundActive_iff (s : State) : soundActive s = true ↔ s.st ≠ 0 := by
  rw [soundActive, decide_eq_true_eq, Nat.pos_iff_ne_zero]
  exact (BitVec.toNat_inj (x := s.st) (y := 0)).not

/-- Settles O38: each instruction is one write, and ticks take the written timer down to 0. -/
theorem timerInstructionsMoveTimers : Obligations.TimerInstructionsMoveTimers := by
  unfold Obligations.TimerInstructionsMoveTimers
  intro x s
  refine ⟨⟨decodeWord_FXNN 0x07 rfl rfl, ?_⟩, ⟨decodeWord_FXNN 0x15 rfl rfl, ?_⟩,
    decodeWord_FXNN 0x18 rfl rfl, ?_⟩
  · exact writesOneRegister_setReg (exec_ldVxDt x s) rfl
  · exact ⟨_, exec_ldDtVx x s, rfl, rfl, dt_iterate_tick _⟩
  · exact ⟨_, exec_ldStVx x s, rfl, rfl, soundActive_iff _, st_iterate_tick _⟩

end Sys2Proof.Machine
end

section
/-! PROOFS. The frame tick (60_exceptions.md R262, R263), and a key wait that ends after the tick that samples the
release (45_keypad_timers.md R232, R233). -/

namespace Sys2Proof.Machine

variable {s : State}

theorem keyInNow_supplied {levels : Keys} {later : List Keys} (h : s.keyIn = levels :: later) :
    s.keyInNow = levels := by rw [State.keyInNow, h, List.headD_cons]

theorem keyInNow_free (h : s.keyIn = []) : s.keyInNow = Config.freeKeyIn s.keyDraws := by
  rw [State.keyInNow, h, List.headD_nil]

/-- Settles O39: the event is `tick`, and the level it samples is the head of the supplied ones, or the free one. -/
theorem tickAdvancesTimersAndSamplesKeys : Obligations.TickAdvancesTimersAndSamplesKeys := by
  unfold Obligations.TickAdvancesTimersAndSamplesKeys
  intro s hf hsc
  refine ⟨tick s, step_tick hf hsc.ge, timerTick_toNat s.dt, timerTick_toNat s.st, rfl, fun levels later h => ?_,
    fun h => ?_, rfl⟩
  · exact ⟨keyInNow_supplied h, by rw [tick_keyIn, h, List.tail_cons]⟩
  · exact ⟨keyInNow_free h, by rw [tick_keyIn, h, List.tail_nil]⟩

/-- The state after the poll that ends a wait for key k (R233). -/
def afterRelease (x : RegIdx) (k : KeyIdx) (s : State) : State := (s.setReg x (BitVec.ofNat 8 k.val)).setKl none

theorem afterRelease_reg (x : RegIdx) (k : KeyIdx) (s : State) : ((afterRelease x k s).reg x).toNat = k.val := by
  have hreg : (afterRelease x k s).reg x = BitVec.ofNat 8 k.val := (State.reg_setReg s x x _).trans (if_pos rfl)
  rw [hreg, BitVec.toNat_ofNat]
  omega

/-- An enabled step at an FX0A whose latched key is up ends the wait and moves on to the next instruction (R122, R233). -/
theorem step_ldVxK_released {x : RegIdx} {k : KeyIdx} (hf : s.fault = none) (hd : s.sc < s.ipt)
    (hpc : s.pc.toNat ≤ 0xFFE) (hi : decode (s.mem.readBytes s.pc.toNat 2) = .ok (.ldVxK x, []))
    (hkl : s.kl = some k) (hup : s.pressed k = false) :
    step s = .next (afterRelease x k (s.setPc (s.pc + 2))).bumpSc := by
  obtain ⟨t, ht, hnext, -⟩ := stepRunsTheDecodedInstruction s (.ldVxK x) hf hd hpc hi
  have hpoll := exec_ldVxK_released (s := s.setPc (s.pc + 2)) (x := x) hkl hup
  cases ht.symm.trans hpoll
  exact hnext hf

/-- Settles O37: the tick makes the key read as up and leaves the wait as it was, so the step after it is the poll that
ends the wait; the new budget, at least one step, enables it. -/
theorem keyReleaseEndsTheWait : Obligations.KeyReleaseEndsTheWait := by
  unfold Obligations.KeyReleaseEndsTheWait
  intro x k s hf hbudget hsc hkl hpc hi hup
  have hpoll : step (tick s) = .next (afterRelease x k ((tick s).setPc (s.pc + 2))).bumpSc :=
    step_ldVxK_released (s := tick s) hf hbudget.1 hpc hi hkl hup
  have hrun : core.run 2 s = .next (afterRelease x k ((tick s).setPc (s.pc + 2))).bumpSc :=
    (run_next (step_tick hf hsc.ge)).trans (run_next hpoll)
  exact ⟨_, hrun, afterRelease_reg .., rfl, advance_toNat hpc, rfl, hf⟩

end Sys2Proof.Machine
end

section
/-! PROOFS. Reset and load (70_reset_and_hazards.md R290, R292, R293; 10_state.md R35): when the core starts, what memory
it starts with, that the state it starts in is safe, and that every run from there stays safe. -/

namespace Sys2Proof.Machine

variable {ipt : Nat} {font program : List Byte} {s t : State}

/-- The memory the two loads of R290 leave, the font's first. -/
def loadedMemory (font program : List Byte) : Memory :=
  (Memory.writeBytes [] Config.fontBase font).writeBytes Config.progBase program

/-- The state the core starts in (R290). -/
def loaded (ipt : Nat) (font program : List Byte) : State :=
  { State.reset with ipt := ipt, sc := ipt, mem := loadedMemory font program }

/-- What the loader asks before the core starts (R4, R292, R293). -/
def Loadable (ipt : Nat) (font program : List Byte) : Prop :=
  1 ≤ ipt ∧ fontImageOk font = true ∧ program.length ≤ 3584

theorem resetAndLoad_eq_some_iff :
    resetAndLoad ipt font program = some s ↔ Loadable ipt font program ∧ loaded ipt font program = s :=
  Option.ite_none_right_eq_some.trans (and_congr_right fun _ => Option.some_inj)

theorem resetAndLoad_eq_none_iff : resetAndLoad ipt font program = none ↔ ¬ Loadable ipt font program := by
  rw [← not_iff_not, not_not, ← ne_eq, Option.ne_none_iff_exists']
  simp only [resetAndLoad_eq_some_iff, exists_and_left, exists_eq', and_true]

theorem fontImageOk_length (h : fontImageOk font = true) : font.length = 80 := by
  obtain ⟨hlen, -⟩ := Bool.and_eq_true_iff.mp h
  exact eq_of_beq hlen

theorem font_fits (h : fontImageOk font = true) : Config.fontBase + font.length ≤ 0x1000 := by
  rw [fontImageOk_length h]; decide

theorem program_fits (h : program.length ≤ 3584) : Config.progBase + program.length ≤ 0x1000 :=
  Nat.add_le_add_left h 0x200

theorem unlisted_outside_font {a : Nat} (h : ¬ (0x050 ≤ a ∧ a < 0x050 + 80)) : Memory.unlisted a = 0 := if_neg h

section LoadedMemory

variable (hfont : fontImageOk font = true)
include hfont

theorem wf_fontMemory : (Memory.writeBytes [] Config.fontBase font).wf = true :=
  Memory.wf_writeBytes rfl (font_fits hfont)

variable (hprogram : program.length ≤ 3584)
include hprogram

theorem loadedMemory_wf : (loadedMemory font program).wf = true :=
  Memory.wf_writeBytes (wf_fontMemory hfont) (program_fits hprogram)

/-- The image ends below 0x1000 and begins above the font, so the second load leaves the first alone (R290, R293). -/
theorem read_loadedMemory (a : Nat) : (loadedMemory font program).read a =
    if 0x050 ≤ a ∧ a ≤ 0x09F then font.getD (a - 0x050) 0
    else if 0x200 ≤ a ∧ a < 0x200 + program.length then program.getD (a - 0x200) 0 else 0 := by
  rw [loadedMemory, Memory.read_writeBytes (wf_fontMemory hfont) (program_fits hprogram),
    Memory.read_writeBytes rfl (font_fits hfont), Memory.read, fontImageOk_length hfont]
  dsimp only [Config.fontBase, Config.progBase]
  by_cases hin : 0x050 ≤ a ∧ a ≤ 0x09F
  · rw [if_neg (by omega), if_pos (by omega), if_pos hin]
  · have hout : ¬ (0x050 ≤ a ∧ a < 0x050 + 80) := by omega
    rw [if_neg hout, if_neg hin, unlisted_outside_font hout]

theorem loaded_safe (hipt : 1 ≤ ipt) : SafeState (loaded ipt font program) where
  memory := loadedMemory_wf hfont hprogram
  budget := ⟨hipt, Nat.le_refl ipt⟩
  latch h := absurd rfl h
  control := ⟨(by decide : Params.resetPc.toNat ≤ 0x10FE), fun j hj => absurd hj (Nat.not_lt_zero j.val)⟩

end LoadedMemory

theorem resetAndLoad_safe (h : resetAndLoad ipt font program = some s) : SafeState s := by
  obtain ⟨⟨hipt, hfont, hprogram⟩, rfl⟩ := resetAndLoad_eq_some_iff.mp h
  exact loaded_safe hfont hprogram hipt

/-- Every event keeps every invariant. -/
theorem step_keeps_safe (hs : SafeState s) (h : step s = .next t) : SafeState t where
  memory := everyEventKeepsMemoryCanonical s t hs.memory h
  budget := everyEventKeepsBudget s t hs.budget h
  latch := everyEventKeepsLatchAtKeyWait s t hs.latch h
  control := everyEventKeepsControlInRange s t hs.control h

/-- A run that goes on for k + 1 events is an event that goes on, then a run of k. -/
theorem run_succ_cases (M : Host.Core) {k : Nat} {s t : M.State} (h : M.run (k + 1) s = .next t) :
    ∃ u, M.step s = .next u ∧ M.run k u = .next t := by
  rw [Host.Core.run] at h
  cases hstep : M.step s with
  | next u => rw [hstep] at h; exact ⟨u, rfl, h⟩
  | fault f => rw [hstep] at h; cases h
  | refused r => rw [hstep] at h; cases h

/-- What every event keeps holds at the end of every run. -/
theorem run_keeps {P : State → Prop} (hP : ∀ s t : State, P s → step s = .next t → P t) {k : Nat} (hs : P s)
    (h : core.run k s = .next t) : P t := by
  induction k generalizing s with
  | zero => cases h; exact hs
  | succ k ih =>
    obtain ⟨u, hu, hrest⟩ := run_succ_cases core h
    exact ih (hP s u hs hu) hrest

/-- Settles O54: the loaded state is safe and every event keeps it so. -/
theorem loadedMachineStaysSafe : Obligations.LoadedMachineStaysSafe := by
  unfold Obligations.LoadedMachineStaysSafe
  intro ipt font program s hload k t hrun
  exact run_keeps (fun _ _ => step_keeps_safe) (resetAndLoad_safe hload) hrun

/-- Settles O55: memory reads as the two loads say, every other field is a constant of the reset. -/
theorem resetAndLoadGivesListedState : Obligations.ResetAndLoadGivesListedState := by
  unfold Obligations.ResetAndLoadGivesListedState
  intro ipt font program hipt hfont hprogram
  refine ⟨loaded ipt font program, resetAndLoad_eq_some_iff.mpr ⟨⟨hipt, hfont, hprogram⟩, rfl⟩,
    fun a _ => read_loadedMemory hfont hprogram a, fun r => Vector.getElem_replicate r.isLt, rfl, rfl, rfl,
    fun j => Vector.getElem_replicate j.isLt, rfl, rfl, fun k => Vector.getElem_replicate k.isLt, rfl,
    fun r c => ?_, rfl, rfl, rfl⟩
  have hrow : (loaded ipt font program).fb[r.val] = .replicate 64 false := Vector.getElem_replicate r.isLt
  rw [hrow, Vector.getElem_replicate]

theorem defaultFont_ok : fontImageOk Params.font = true := by decide

/-- The default font is what its addresses read as unlisted, so loading it and nothing else lists no cell. -/
theorem loadedMemory_default : loadedMemory Params.font [] = [] := by
  have hempty : ([] : List Byte).length ≤ 3584 := Nat.zero_le _
  refine memoriesThatReadAlikeAreEqual _ _ (loadedMemory_wf defaultFont_ok hempty) rfl fun a _ => ?_
  rw [read_loadedMemory defaultFont_ok hempty, Memory.read, Memory.unlisted]
  dsimp only [Config.fontBase, Config.fontLen, List.length_nil]
  by_cases hin : 0x050 ≤ a ∧ a ≤ 0x09F
  · rw [if_pos hin, if_pos (by omega)]
  · rw [if_neg hin, if_neg (by omega), if_neg (by omega)]

/-- Settles O49: the reset state is the loaded state of the defaults, and every loaded state is safe. -/
theorem resetStateIsSafe : Obligations.ResetStateIsSafe := by
  unfold Obligations.ResetStateIsSafe
  have hstart : loaded 15 Params.font [] = State.reset := by rw [loaded, loadedMemory_default]; rfl
  have hload : resetAndLoad 15 Params.font [] = some State.reset :=
    resetAndLoad_eq_some_iff.mpr ⟨⟨by decide, defaultFont_ok, Nat.zero_le _⟩, hstart⟩
  exact ⟨resetAndLoad_safe hload, rfl, rfl, rfl, hload⟩

/-- Settles O56: either excess contradicts what the loader asks. -/
theorem oversizedImagesAreRefused : Obligations.OversizedImagesAreRefused := by
  unfold Obligations.OversizedImagesAreRefused
  intro ipt font program hexcess
  refine resetAndLoad_eq_none_iff.mpr fun ⟨_, hfont, hprogram⟩ => ?_
  rcases hexcess with hlong | hsize
  · omega
  · exact hsize (fontImageOk_length hfont)

end Sys2Proof.Machine
end

section
/-! PROOFS. The schedule of frames (60_exceptions.md R264; decision D13): one number that every event raises by 1 holds
both the ticks and the steps since the last. -/

namespace Sys2Proof.Machine

variable {s t : State}

/-- Events counted in frames of 1 + IPT: the ticks so far are the frames, SC is the place in the last one. -/
def eventClock (s : State) : Nat := s.keyDraws * (s.ipt + 1) + s.sc

/-- No instruction ticks (R37). -/
theorem exec_keyDraws {i : Instr} (h : exec i s = .next t) : t.keyDraws = s.keyDraws := by
  obtain ⟨-, -, -, -, -, -, -, -, -, -, -, -, hdraws⟩ := onlyNamedInstructionsWriteState i s t h
  exact hdraws

/-- An event that meets no fault raises the clock by 1: a tick opens the next frame when the last is full, a step is
counted by SC (R120, R263). -/
theorem step_eventClock (hs : BudgetSound s) (h : step s = .next t) (hrun : t.fault = none) :
    t.ipt = s.ipt ∧ eventClock t = eventClock s + 1 := by
  obtain ⟨-, ⟨hdue, rfl⟩ | ⟨-, -, rfl⟩ | ⟨-, -, w, u, -, hu, rfl⟩⟩ := step_cases h
  · have hfull : s.sc = s.ipt := Nat.le_antisymm hs.2 hdue
    refine ⟨rfl, ?_⟩
    simp only [eventClock, tick_keyDraws, tick_ipt, tick_sc, hfull, Nat.succ_mul]
    omega
  · cases hrun
  · have hu_running : u.fault = none := by rwa [countStep_eq] at hrun
    obtain ⟨hsc, hipt⟩ := exec_budget hu
    have hdraws := exec_keyDraws hu
    simp only [State.setPc_sc, State.setPc_ipt, State.setPc_keyDraws] at hsc hipt hdraws
    rw [countStep_running hu_running]
    refine ⟨hipt, ?_⟩
    simp only [eventClock, State.bumpSc_keyDraws, State.bumpSc_ipt, State.bumpSc_sc, hsc, hipt, hdraws, Nat.add_assoc]

/-- A run that meets no fault started without one (R258). -/
theorem running_of_run {k : Nat} (h : core.run k s = .next t) (hrun : t.fault = none) : s.fault = none := by
  cases k with
  | zero => cases h; exact hrun
  | succ k =>
    obtain ⟨u, hu, -⟩ := run_succ_cases core h
    exact (step_cases hu).1

/-- A run of k events that meets no fault raises the clock by k. -/
theorem run_eventClock {k : Nat} (hs : BudgetSound s) (h : core.run k s = .next t) (hrun : t.fault = none) :
    t.ipt = s.ipt ∧ eventClock t = eventClock s + k := by
  induction k generalizing s with
  | zero => cases h; exact ⟨rfl, rfl⟩
  | succ k ih =>
    obtain ⟨u, hu, hrest⟩ := run_succ_cases core h
    obtain ⟨hipt, hclock⟩ := step_eventClock hs hu (running_of_run hrest hrun)
    obtain ⟨hipt', hclock'⟩ := ih (everyEventKeepsBudget s u hs hu) hrest
    exact ⟨hipt'.trans hipt, by omega⟩

/-- While SC is within the budget the clock determines it and the ticks: remainder and quotient by the frame length. -/
theorem eventClock_div_mod (h : s.sc ≤ s.ipt) :
    eventClock s / (s.ipt + 1) = s.keyDraws ∧ eventClock s % (s.ipt + 1) = s.sc :=
  Nat.div_mod_unique (Nat.succ_pos _) |>.mpr
    ⟨by rw [eventClock, Nat.mul_comm, Nat.add_comm], Nat.lt_succ_of_le h⟩

/-- The place in the frame, SC, after k events from a full budget: 0 follows IPT. -/
theorem add_mod_frame (k n : Nat) : (k + n) % (n + 1) = if k % (n + 1) = 0 then n else k % (n + 1) - 1 := by
  have hlt : k % (n + 1) < n + 1 := Nat.mod_lt k n.succ_pos
  rw [Nat.add_mod, Nat.mod_eq_of_lt n.lt_succ_self]
  split
  · next h => rw [h, Nat.zero_add, Nat.mod_eq_of_lt n.lt_succ_self]
  · next h =>
    rw [show k % (n + 1) + n = k % (n + 1) - 1 + (n + 1) by omega, Nat.add_mod_right,
      Nat.mod_eq_of_lt (by omega)]

/-- Settles O47: the clock starts at a full frame and k events raise it by k; its quotient and remainder are the ticks
and SC. -/
theorem framesAreOneTickAndIptSteps : Obligations.FramesAreOneTickAndIptSteps := by
  unfold Obligations.FramesAreOneTickAndIptSteps
  intro k s t hipt hsc h hrun
  have hs : BudgetSound s := ⟨hipt, hsc.le⟩
  obtain ⟨htipt, hclock⟩ := run_eventClock hs h hrun
  have ht : BudgetSound t := run_keeps everyEventKeepsBudget hs h
  obtain ⟨hdiv, hmod⟩ := eventClock_div_mod ht.2
  have hvalue : eventClock t = k + s.ipt + (s.ipt + 1) * s.keyDraws := by
    rw [hclock, eventClock, hsc, Nat.mul_comm]; omega
  rw [htipt, hvalue] at hdiv hmod
  refine ⟨htipt, ?_, ?_⟩
  · rw [← hdiv, Nat.add_mul_div_left _ _ (Nat.succ_pos _), Nat.add_comm]
  · rw [← hmod, Nat.add_mul_mod_self_left, add_mod_frame]

end Sys2Proof.Machine
end

section
/-! PROOFS. The random byte and its mask (42_alu.md R171; 60_exceptions.md R268). -/

namespace Sys2Proof.Machine

variable {s : State}

theorem exec_rnd (x : RegIdx) (nn : Byte) (s : State) :
    exec (.rnd x nn) s = .next (s.rndTaken.setReg x (s.rndNow &&& nn)) := rfl

theorem rndNow_supplied {b : Byte} {later : List Byte} (h : s.rndIn = b :: later) : s.rndNow = b := by
  rw [State.rndNow, h, List.headD_cons]

theorem rndNow_free (h : s.rndIn = []) : s.rndNow = Config.freeRnd s.rndDraws := by
  rw [State.rndNow, h, List.headD_nil]

/-- Settles O24: V[x] becomes `rndNow` under the mask, whose bits bound it, and one byte leaves the input. -/
theorem randomByteIsMasked : Obligations.RandomByteIsMasked := by
  unfold Obligations.RandomByteIsMasked
  intro x nn s
  have hreg : (s.rndTaken.setReg x (s.rndNow &&& nn)).reg x = s.rndNow &&& nn :=
    (State.reg_setReg ..).trans (if_pos rfl)
  refine ⟨packXNN_eq 0xC x nn ▸ decodeWord_encode (i := .rnd x nn) rfl, _, exec_rnd x nn s, ?_, ?_, ?_, ?_, ?_, rfl⟩
  · intro b later h
    exact ⟨by rw [hreg, rndNow_supplied h], by rw [State.setReg_rndIn, State.rndTaken_rndIn, h, List.tail_cons]⟩
  · intro h
    exact ⟨by rw [hreg, rndNow_free h], by rw [State.setReg_rndIn, State.rndTaken_rndIn, h, List.tail_nil]⟩
  · rw [hreg, BitVec.toNat_and]
    exact Nat.and_le_right
  · intro k hk
    rw [hreg, BitVec.getLsbD_and, hk, Bool.and_false]
  · intro r hr
    rw [State.reg_setReg, if_neg hr]; rfl

end Sys2Proof.Machine
end

section
/-! PROOFS. One poll of the key wait (45_keypad_timers.md R232, R233) and the two key skips (R230, R231). -/

namespace Sys2Proof

/-- The words of group 0xE as statements name them, the selector NN next to the op (R92, R94). -/
theorem decodeWord_EXNN {i : Instr} {x : RegIdx} (nn : Byte) (hi : encode i = packXNN 0xE x nn)
    (hwf : i.wellFormed = true) : decodeWord (BitVec.ofNat 16 (0xE000 + nn.toNat + 0x100 * x.val)) = i := by
  rw [Nat.add_right_comm, ← packXNN_eq 0xE x nn, ← hi, decodeWord_encode hwf]

namespace Machine

variable {s : State}

theorem leastPressed_none (h : ∀ k : KeyIdx, s.pressed k = false) : s.leastPressed = none :=
  List.find?_eq_none.mpr fun k _ => Bool.eq_false_iff.mp (h k)

/-- The search runs upwards, so it finds the pressed key with none pressed below it (decision D7). -/
theorem leastPressed_some {k : KeyIdx} (hk : s.pressed k = true) (hlow : ∀ j < k, s.pressed j = false) :
    s.leastPressed = some k := by
  refine List.find?_eq_some_iff_getElem.mpr ⟨hk, k.val, by rw [List.length_finRange]; exact k.isLt, ?_, fun j hj => ?_⟩
  · exact List.getElem_finRange _
  · rw [List.getElem_finRange, hlow _ hj, Bool.not_false]

/-- Settles O36, row by row of R233. -/
theorem keyWaitPolls : Obligations.KeyWaitPolls := by
  unfold Obligations.KeyWaitPolls
  intro x s
  refine ⟨decodeWord_FXNN 0x0A rfl rfl, ?_, ?_, ?_, ?_⟩
  · intro hkl hup
    rw [exec_ldVxK_unlatched hkl, leastPressed_none hup, ← hkl]; rfl
  · intro k hkl hdown hlow
    rw [exec_ldVxK_unlatched hkl, leastPressed_some hdown hlow]; rfl
  · intro k hkl hdown
    exact exec_ldVxK_held hkl hdown
  · intro k hkl hup
    refine ⟨afterRelease x k s, exec_ldVxK_released hkl hup, afterRelease_reg x k s, fun r hr => ?_, rfl, rfl⟩
    exact (State.reg_setReg ..).trans (if_neg hr)

theorem lowNibble_eq {b : Byte} {k : KeyIdx} (h : b.toNat % 16 = k.val) : lowNibble b = k := Fin.ext h

/-- Settles O35: both instructions are skips on the level of the key that the low nibble names. -/
theorem keySkipsReadSnapshot : Obligations.KeySkipsReadSnapshot := by
  unfold Obligations.KeySkipsReadSnapshot
  intro x k s hk
  have hkey : s.pressed (lowNibble (s.reg x)) = s.key[k.val] := by rw [lowNibble_eq hk]; rfl
  refine ⟨⟨decodeWord_EXNN 0x9E rfl rfl, setsPcOnly_skipIf rfl (by rw [hkey])⟩, decodeWord_EXNN 0xA1 rfl rfl, ?_⟩
  rw [← ite_not]
  exact setsPcOnly_skipIf rfl (by rw [hkey, Bool.not_eq_true', Bool.not_eq_true])

end Machine

end Sys2Proof
end

section
/-! PROOFS. Faults are precise and final (60_exceptions.md R255, R256, R258). -/

namespace Sys2Proof.Machine

variable {s t : State}

/-- Only the fetch itself raises MemRangeFetch, no instruction does (R253). -/
theorem faultCondition_ne_memRangeFetch (i : Instr) (s : State) : faultCondition i s ≠ some .memRangeFetch := by
  intro h
  cases i with
  | call | ret | drw | ldBVx | ldMemVx | ldVxMem => rw [faultCondition] at h; split at h <;> cases h
  | _ => cases h

/-- An instruction that takes the machine from FAULT = None to a fault did nothing else, and it was no fetch fault. -/
theorem exec_raised {i : Instr} {f : FaultCause} (h : exec i s = .next t) (hs : s.fault = none)
    (ht : t.fault = some f) : t = s.setFault f ∧ f ≠ .memRangeFetch := by
  obtain ⟨t', ht', hraised, hcompleted⟩ := instructionsFaultExactlyAsListed i s
  cases ht'.symm.trans h
  cases hc : faultCondition i s with
  | none => rw [hcompleted hc, hs] at ht; cases ht
  | some g =>
    have hset : t = s.setFault g := hraised g hc
    rw [hset, State.setFault_fault] at ht
    cases ht
    exact ⟨hset, fun hg => faultCondition_ne_memRangeFetch i s (hg ▸ hc)⟩

/-- Settles O42: a tick raises nothing, a failed fetch comes before the advance, and an instruction's fault after it and
before the count. -/
theorem faultingStepIsPrecise : Obligations.FaultingStepIsPrecise := by
  unfold Obligations.FaultingStepIsPrecise
  intro s t f h ht
  obtain ⟨hs, ⟨-, rfl⟩ | ⟨-, -, rfl⟩ | ⟨-, -, w, u, -, hu, rfl⟩⟩ := step_cases h
  · rw [tick_fault, hs] at ht; cases ht
  · cases ht; rfl
  · have hufault : u.fault = some f := by rwa [countStep_eq] at ht
    obtain ⟨rfl, hf⟩ := exec_raised hu hs hufault
    rw [countStep_faulted (Option.ne_none_iff_exists'.mpr ⟨f, rfl⟩), if_neg hf]
    rfl

/-- Settles O11: the first event already answers the stuck outcome. -/
theorem haltedMachineIsStuck : Obligations.HaltedMachineIsStuck := by
  unfold Obligations.HaltedMachineIsStuck
  intro s f k hf
  exact run_fault (step_halted hf)

end Sys2Proof.Machine
end

section
/-! PROOFS. The jump with offset (41_control_flow.md R147). -/

namespace Sys2Proof.Machine

theorem exec_jpV0 (nnn : BitVec 12) (s : State) :
    exec (.jpV0 nnn) s = .next (s.setPc (zextByte (s.reg 0) + zextNNN nnn)) := rfl

/-- Settles O14: the sum of a byte and twelve bits does not wrap. -/
theorem offsetJumpAddsV0 : Obligations.OffsetJumpAddsV0 := by
  unfold Obligations.OffsetJumpAddsV0
  intro nnn s
  have hword : decodeWord (BitVec.ofNat 16 (0xB000 + nnn.toNat)) = .jpV0 nnn := decodeWord_encode (i := .jpV0 nnn) rfl
  exact ⟨hword, _, exec_jpV0 nnn s, zextByte_add_zextNNN_toNat (s.reg 0) nnn, rfl⟩

end Sys2Proof.Machine
end

section
/-! PROOFS. A finished program: no later event moves anything but the clocks and the keys (70_reset_and_hazards.md R294). -/

namespace Sys2Proof.Machine

variable {s t u : State}

theorem finished_iff (s : State) : finished s = true ↔ ∃ w, fetchWord s = some w ∧
    decodeWord w = .jp (nnnField s.pc) ∧ zextNNN (nnnField s.pc) = s.pc ∧ s.kl = none ∧ s.fault = none := by
  rw [finished]
  cases fetchWord s with
  | none => simp
  | some w => simp [and_assoc]

/-- Nothing has changed but what ticks and the count of steps write. -/
def OnlyClocksMoved (s t : State) : Prop :=
  t = { s with dt := t.dt, st := t.st, key := t.key, sc := t.sc, keyIn := t.keyIn, keyDraws := t.keyDraws }

theorem OnlyClocksMoved.trans (h : OnlyClocksMoved s t) (h' : OnlyClocksMoved t u) : OnlyClocksMoved s u := by
  rw [OnlyClocksMoved] at h h' ⊢
  rw [h] at h'
  exact h'

/-- Being finished does not depend on the clocks. -/
theorem OnlyClocksMoved.finished_eq (h : OnlyClocksMoved s t) : finished t = finished s := by
  rw [OnlyClocksMoved] at h
  rw [h]; rfl

/-- The next event of a finished program is a tick or a jump to itself, which is counted and does nothing else. -/
theorem step_finished (h : finished s = true) : ∃ t, step s = .next t ∧ OnlyClocksMoved s t := by
  obtain ⟨w, hw, hjp, hself, -, hf⟩ := (finished_iff s).mp h
  rcases Nat.lt_or_ge s.sc s.ipt with hd | hd
  · have hpc : s.pc.toNat = (nnnField s.pc).toNat := by rw [← zextNNN_toNat, hself]
    exact ⟨_, step_jump_to_self hf hd hw hjp hpc, rfl⟩
  · exact ⟨_, step_tick hf hd, rfl⟩

/-- Settles O48, by induction on the number of events. -/
theorem finishedProgramIsFinal : Obligations.FinishedProgramIsFinal := by
  unfold Obligations.FinishedProgramIsFinal
  intro k
  induction k with
  | zero => exact fun s hs => ⟨s, rfl, hs, rfl⟩
  | succ k ih =>
    intro s hs
    obtain ⟨u, hu, hmoved⟩ := step_finished hs
    obtain ⟨t, ht, hfin, hrest⟩ := ih u (hmoved.finished_eq.trans hs)
    exact ⟨t, (run_next hu).trans ht, hfin, hmoved.trans hrest⟩

end Sys2Proof.Machine
end
